-- ==== Sys2Proof/Word.lean ====
section
/-! DEFINITION. The widths the spec gives its quantities: bytes, 16-bit halves, 32-bit frame and response words
(spec/00_scope.md R6 `WORD`, spec/10_state.md R32). -/

namespace Sys2Proof

/-- One byte: an opcode byte, a payload byte, one cell of a target space (20_memory.md R60). -/
abbrev Byte := BitVec 8

/-- A 16-bit quantity: an XDATA address, a count of an extended frame, a block length. -/
abbrev Half := BitVec 16

/-- One 32-bit word of `TXF` or `RXF` (00_scope.md R6 `WORD` = 32). -/
abbrev Word := BitVec 32

end Sys2Proof
end

