-- ==== Sys2Proof/Config.lean ====
section
/-! DEFINITION. The parameters of the block (00_scope.md R6 to R8) and the free values of the model.
R6's values are constants. R7's and R8's are fields of one record that State carries and no step writes, so that a
statement about every state holds for every value of every parameter. -/

namespace Sys2Proof

/-- `FLASH_SIZE` (R6): 256 KiB. -/
def flashSize : Nat := 262144
/-- `BANK_SIZE` (R6): 32 KiB. -/
def bankSize : Nat := 32768
/-- `FILL` (R6): the pad byte of a short final block. -/
def fillByte : Byte := 0xFF#8
/-- `DESC_LEN` (R6): bytes in one DMA descriptor. -/
def descLen : Nat := 8
/-- `SIMPLE_MAX_W` (R6): the most payload bytes of a simple frame. -/
def simpleMaxW : Nat := 3
/-- The largest value of a 16-bit count (R6 `COUNT_BITS` = 16). -/
def countMax : Nat := 65535
/-- `N_ATTACH_FALLS` (R6): falling strobe edges while reset is low. -/
def nAttachFalls : Nat := 2

/-- The named parameters of 00_scope.md R7 (no default in the spec: the values below are notes/assumptions/2.md's)
and R8 (defaults from the spec, there marked general knowledge). -/
structure Config where
  /-- `BLOCK_SIZE` (R7, example value 512). -/
  blockSize : Nat := 512
  /-- `T_TICK` in nanoseconds (R7). -/
  tTick : Nat := 1000
  /-- `T_TARGET_MIN` in nanoseconds (R7: "tens of nanoseconds"). -/
  tTargetMin : Nat := 50
  /-- `N_RST_HOLD` in ticks (R7). -/
  nRstHold : Nat := 2
  /-- `PIN_BASE` (R7). -/
  pinBase : Nat := 0
  /-- `TIMEOUT_CEILING` (R7). -/
  timeoutCeiling : Nat := 1
  /-- `ERASE_CEILING` (R7). -/
  eraseCeiling : Nat := 1
  /-- `PROGRAM_CEILING` (R7). -/
  programCeiling : Nat := 1
  /-- `POLL_SLEEP` (R7). -/
  pollSleep : Nat := 1
  /-- `SETTLE_DELAY` (R7). -/
  settleDelay : Nat := 1
  /-- `TXF_DEPTH` (R7, at least 1). -/
  txfDepth : Nat := 4
  /-- `RXF_DEPTH` (R7, at least 1). -/
  rxfDepth : Nat := 4
  /-- `READY_LEVEL` (R8). -/
  readyLevel : Bool := false
  /-- `OP_NULL` (R8; the default is the source's, 30_encoding.md R99; notes/assumptions/30.md). -/
  opNull : Byte := 0x00#8
  /-- `OP_CHIP_ERASE` (R8). -/
  opChipErase : Byte := 0x10#8
  /-- `OP_WR_CONFIG` (R8). -/
  opWrConfig : Byte := 0x19#8
  /-- `OP_READ_STATUS` (R8). -/
  opReadStatus : Byte := 0x30#8
  /-- `OP_GET_CHIP_ID` (R8). -/
  opGetChipId : Byte := 0x68#8
  /-- `OP_DEBUG_INSTR` (R8): the byte count goes into bits 1:0. -/
  opDebugInstr : Byte := 0x50#8
  /-- `OP_BURST_WRITE` (R8): length bits 10:8 go into bits 2:0. -/
  opBurstWrite : Byte := 0x80#8
  /-- `BURST_MAX` (R8). -/
  burstMax : Nat := 2047
  /-- `I_MOV_DPTR` (R8). -/
  iMovDptr : Byte := 0x90#8
  /-- `I_MOV_A` (R8). -/
  iMovA : Byte := 0x74#8
  /-- `I_MOVX_ST` (R8). -/
  iMovxSt : Byte := 0xF0#8
  /-- `I_MOVX_LD` (R8). -/
  iMovxLd : Byte := 0xE0#8
  /-- `I_INC_DPTR` (R8). -/
  iIncDptr : Byte := 0xA3#8
  /-- `ADDR_DBGDATA` (R8). -/
  addrDbgdata : Half := 0x6260#16
  /-- `ADDR_FCTL` (R8). -/
  addrFctl : Half := 0x6270#16
  /-- `ADDR_FADDRL` (R8). -/
  addrFaddrl : Half := 0x6271#16
  /-- `ADDR_FADDRH` (R8). -/
  addrFaddrh : Half := 0x6272#16
  /-- `ADDR_FWDATA` (R8). -/
  addrFwdata : Half := 0x6273#16
  /-- `ADDR_CLKCONSTA` (R8). -/
  addrClkconsta : Half := 0x709E#16
  /-- `ADDR_CLKCONCMD` (R8). -/
  addrClkconcmd : Half := 0x70C6#16
  /-- `ADDR_MEMCTR` (R8). -/
  addrMemctr : Half := 0x70C7#16
  /-- `ADDR_DMA1CFGL` (R8). -/
  addrDma1cfgl : Half := 0x70D2#16
  /-- `ADDR_DMA1CFGH` (R8). -/
  addrDma1cfgh : Half := 0x70D3#16
  /-- `ADDR_DMA0CFGL` (R8). -/
  addrDma0cfgl : Half := 0x70D4#16
  /-- `ADDR_DMA0CFGH` (R8). -/
  addrDma0cfgh : Half := 0x70D5#16
  /-- `ADDR_DMAARM` (R8). -/
  addrDmaarm : Half := 0x70D6#16
  /-- `ADDR_BUF` (R8): the staging buffer in target RAM. -/
  addrBuf : Half := 0x0000#16
  /-- `ADDR_DESC_A` (R8). -/
  addrDescA : Half := 0x0200#16
  /-- `ADDR_DESC_B` (R8). -/
  addrDescB : Half := 0x0208#16
  /-- `CTRL_A0` (R8). -/
  ctrlA0 : Byte := 0x1F#8
  /-- `CTRL_A1` (R8). -/
  ctrlA1 : Byte := 0x11#8
  /-- `CTRL_B0` (R8). -/
  ctrlB0 : Byte := 0x12#8
  /-- `CTRL_B1` (R8). -/
  ctrlB1 : Byte := 0x42#8
  /-- `ARM_A` (R8). -/
  armA : Byte := 0x01#8
  /-- `ARM_B` (R8). -/
  armB : Byte := 0x02#8
  /-- `STATUS_ERASE_BUSY` (R8). -/
  statusEraseBusy : Byte := 0x80#8
  /-- `FCTL_BUSY` (R8). -/
  fctlBusy : Byte := 0x80#8
  /-- `FCTL_WRITE_VALUE` (R8). -/
  fctlWriteValue : Byte := 0x06#8
  /-- `CONFIG_ENABLE_DMA` (R8). -/
  configEnableDma : Byte := 0x22#8
  /-- `BANK_WINDOW_BASE` (R8). -/
  bankWindowBase : Half := 0x8000#16
  /-- `CLOCK_INIT` (R8): whether session start performs the clock switch of 43_flash_program.md R236. -/
  clockInit : Bool := false
  /-- `CLK_CMD_VALUE` (R8). -/
  clkCmdValue : Byte := 0x80#8
  /-- `CLK_STA_VALUE` (R8). -/
  clkStaValue : Byte := 0x80#8
  deriving DecidableEq, Repr

/-- The record State.reset carries: R8's defaults, and for R7 the values of notes/assumptions/2.md. -/
def Config.default : Config := {}

/-! Free values: no body, so nothing can be proved of them but that they are values. Each is applied to the model's
step counter (and a draw number where one step may need several). -/

/-- DESIGN CHOICE (notes/assumptions/3.md). Which agent moves when the list of turns has run out (R13, R131). -/
opaque Config.freeTurn : Nat → BitVec 2

/-- DESIGN CHOICE (notes/assumptions/4.md). The level of the data line while the block's driver is off and no answer
is listed (20_memory.md R78). -/
opaque Config.freeDd : Nat → Bool

/-- DESIGN CHOICE (notes/assumptions/5.md). What `expired()` answers when no answer is listed (10_state.md R45): by
timer, then by step. -/
opaque Config.freeExpired : Nat → Nat → Bool

/-- DESIGN CHOICE (notes/assumptions/6.md). What a working register that holds no value reads as (10_state.md R30): by
register, then by step. -/
opaque Config.freeRegister : Nat → Nat → BitVec 32

/-- DESIGN CHOICE (notes/assumptions/7.md). A byte of the target that no rule fixes (20_memory.md R78, R82). -/
opaque Config.freeByte : Nat → Nat → Byte

/-- DESIGN CHOICE (notes/assumptions/7.md). A 16-bit register of the target that no rule fixes. -/
opaque Config.freeHalf : Nat → Nat → Half

end Sys2Proof
end

