-- ==== Sys2Proof/Syntax.lean ====
section
/-! DEFINITION. The syntax: one constructor of Instr for each row of spec/opcode_table.json, and the types its operands
and its encodings are made of. -/

namespace Sys2Proof

/-- The protocol variant the sequencer runs (10_state.md R27). -/
inductive Variant
  | vNone | vAttach | vSimple | vExt
  deriving DecidableEq, Repr

/-- The two kinds of frame (30_encoding.md R90). -/
inductive Kind
  | simple | ext
  deriving DecidableEq, Repr

/-- A frame: the source's DebugFrame (30_encoding.md R90). The write count is the length of the payload. -/
structure Frame where
  kind : Kind
  op : Byte
  payload : List Byte
  rcount : Nat
  deriving DecidableEq, Repr

/-- One answer of `SRC.fill` (10_state.md R47): bytes, or `StorageError` with the collaborator's detail. -/
inductive Fill
  | bytes (bs : List Byte)
  | storageError (detail : Nat)
  deriving DecidableEq, Repr

/-- One answer of `SNK.append` (10_state.md R47). -/
inductive Ack
  | accepted
  | storageError (detail : Nat)
  deriving DecidableEq, Repr

/-- The values of `LE_PHASE` (10_state.md R28). -/
inductive Phase
  | pStopped
  | atAssert | atHold | atHi | atHihold | atLo | atLohold | atRelease | atSettle | atDone
  | cIdle | cFetch0 | cDirout | cTxset | cTxhi | cTxhold | cTxlo | cRefill
  | cDirin | cSample | cRxhi | cRxhold | cRxlo | cPush
  deriving DecidableEq, Repr

/-- One constructor per row of spec/opcode_table.json, in the table's order: the 27 operations (30_encoding.md R120),
the 20 word formats and target commands (R96 to R112), the 25 phase rules (10_state.md R28). A flat flash address is a
natural number, since 20_memory.md R62 does its arithmetic in at least 19 bits. -/
inductive Instr
  -- operations, selected by HOP
  | leLoad (v : Variant)
  | leStart
  | leStop
  | leAbort
  | leDeinit
  | leSwitch (v : Variant)
  | leAttach
  | cpXchg (f : Frame)
  | alWrite (a : Half) (v : Byte)
  | alRead (a : Half)
  | alWriteBlock (a : Half) (bs : List Byte)
  | alReadBlockBanked (a n : Nat)
  | idLookup (b : Byte)
  | idRead
  | fpErase
  | fpEnableDma
  | fpConfigDma (len : Nat)
  | fpBurstLoad (a : Nat) (bs : List Byte)
  | fpProgram
  | fpClockInit
  | fpWriteBlock (a : Nat) (bs : List Byte)
  | frRead (a n : Nat)
  | toSessionStart
  | toWriteAll (src : List Fill)
  | toReadAll (snk : List Ack)
  | toRestart
  | toSessionEnd
  -- words and target commands
  | simpleWord (op6 : BitVec 6) (cnt : BitVec 2) (p0 p1 p2 : Byte)
  | null (ignored : BitVec 24)
  | chipErase
  | wrConfig (c : Byte)
  | readStatus
  | debugInstr1 (i0 : Byte)
  | debugInstr2 (i0 i1 : Byte)
  | debugInstr3 (i0 i1 i2 : Byte)
  | tMovDptr (a : Half)
  | tMovA (v : Byte)
  | tMovxSt
  | tMovxLd
  | tIncDptr
  | extPrefix (wcount rcount : Half)
  | extStreamWord (s0 s1 s2 s3 : Byte)
  | extNull (ignored : BitVec 24)
  | getChipId
  | burstWrite (data : List Byte)
  | respWord (nr : Bool) (data : Byte)
  | dmaDescriptor (src dst len : Half) (c0 c1 : Byte)
  -- phase rules
  | pStopped
  | atAssert
  | atHold
  | atHi
  | atHihold
  | atLo
  | atLohold
  | atRelease
  | atSettle
  | atDone
  | cIdleSimple
  | cIdleExt
  | cFetch0
  | cDirout
  | cTxset
  | cTxhi
  | cTxhold
  | cTxlo
  | cRefill
  | cDirin
  | cSample
  | cRxhi
  | cRxhold
  | cRxlo
  | cPush
  deriving DecidableEq, Repr

/-- The named arguments that go with a HOP code (30_encoding.md R120: "Arguments and results are passed by name, not
encoded"). An operation reads the names it has and the others are zero. -/
structure Args where
  variant : Variant := .vNone
  kind : Kind := .simple
  op : Byte := 0#8
  rcount : Nat := 0
  addr : Nat := 0
  byte : Byte := 0#8
  bytes : List Byte := []
  len : Nat := 0
  src : List Fill := []
  snk : List Ack := []
  deriving DecidableEq, Repr

/-- What a decoder is given. A word carries no tag (30_encoding.md R114): the place it is fetched from says in which
format it is read. -/
inductive Code
  /-- A HOP code and its named arguments, from the queue of requests (R120). -/
  | hop (code : Byte) (args : Args)
  /-- The phase code the sequencer is at, under its loaded variant (10_state.md R28). -/
  | phase (v : Variant) (code : Byte)
  /-- A word popped in C_IDLE under V_SIMPLE (R96). -/
  | simple (w : Word)
  /-- A word popped in C_IDLE under V_EXT (R100). -/
  | extPrefix (w : Word)
  /-- The first stream word, popped in C_FETCH0 (R101, R102). -/
  | extStream0 (w : Word)
  /-- A later stream word, popped in C_REFILL (R101). -/
  | extStream (w : Word)
  /-- The bytes of one frame as the target has received them (20_memory.md R80). -/
  | command (bytes : List Byte)
  /-- A response word popped from RXF (R103). -/
  | resp (w : Word)
  /-- The eight bytes of a DMA descriptor as they stand in target RAM (R106). -/
  | desc (bytes : List Byte)
  deriving DecidableEq, Repr

/-- Why a decoder gives no instruction. -/
inductive Reject
  /-- A HOP value that is not in the table of 30_encoding.md R120. -/
  | unassignedHop
  /-- An address argument that does not fit the operation's 16 bits. -/
  | operandRange
  /-- A phase code that 10_state.md R28 does not list. -/
  | reservedPhase
  /-- A listed phase under a variant that does not have it (10_state.md R28). -/
  | phaseOfAnotherVariant
  /-- A frame of no bytes. -/
  | emptyCommand
  /-- An opcode byte that 30_encoding.md R112 does not assign. -/
  | unassignedOpcode
  /-- Fewer or more payload bytes than the command wants (93_implementation_defined.md G5). -/
  | payloadLength
  /-- A descriptor that is not eight bytes long (30_encoding.md R106). -/
  | descriptorLength
  deriving DecidableEq, Repr

end Sys2Proof
end

