-- ==== Sys2Proof/Decode.lean ====
section
/-! DEFINITION. Decoding and encoding: the bit-field and byte-order helpers, the decoder (total, rejecting by name), the
encoder, and the reading of a bare word of spec/opcode_table.json. -/

namespace Sys2Proof

/-! ### Byte and bit order (20_memory.md R65, R66) -/

/-- `hi(v) = v[15:8]` (00_scope.md R9). -/
def hi (v : Half) : Byte := v.extractLsb' 8 8

/-- `lo(v) = v[7:0]` (00_scope.md R9). -/
def lo (v : Half) : Byte := v.extractLsb' 0 8

/-- `{h, l}`: the more significant byte first (20_memory.md R65). -/
def be16 (h l : Byte) : Half := h ++ l

/-- Four bytes in one word, the first in bits 31:24 (20_memory.md R66). -/
def word4 (a b c d : Byte) : Word := a ++ b ++ c ++ d

/-- Byte `k` of a word in wire order: byte 0 is bits 31:24. -/
def wordByte (w : Word) (k : Nat) : Byte := w.extractLsb' (24 - 8 * k) 8

/-- A stream of bytes packed four to a word, the missing bytes of the last word zero (30_encoding.md R101). -/
def packWords : List Byte → List Word
  | [] => []
  | [a] => [word4 a 0#8 0#8 0#8]
  | [a, b] => [word4 a b 0#8 0#8]
  | [a, b, c] => [word4 a b c 0#8]
  | a :: b :: c :: d :: rest => word4 a b c d :: packWords rest

/-- The bits of a byte in wire order, the most significant first (20_memory.md R66). -/
def byteBits (b : Byte) : List Bool :=
  [b.getLsbD 7, b.getLsbD 6, b.getLsbD 5, b.getLsbD 4, b.getLsbD 3, b.getLsbD 2, b.getLsbD 1, b.getLsbD 0]

/-- Eight bits in wire order as one byte. -/
def bitsByte (b7 b6 b5 b4 b3 b2 b1 b0 : Bool) : Byte :=
  (BitVec.ofBool b7 ++ BitVec.ofBool b6 ++ BitVec.ofBool b5 ++ BitVec.ofBool b4) ++
    (BitVec.ofBool b3 ++ BitVec.ofBool b2 ++ BitVec.ofBool b1 ++ BitVec.ofBool b0)

/-- The whole bytes of a list of bits in wire order; bits that do not fill a byte are no byte. -/
def packBits : List Bool → List Byte
  | b7 :: b6 :: b5 :: b4 :: b3 :: b2 :: b1 :: b0 :: rest => bitsByte b7 b6 b5 b4 b3 b2 b1 b0 :: packBits rest
  | _ => []

/-! ### Frames (30_encoding.md R90 to R102) -/

/-- The count bits of an opcode byte, `op[1:0]` (30_encoding.md R92). -/
def countBits (op : Byte) : Nat := op.toNat % 4

/-- The bits of an opcode byte that do not carry a burst's length (30_encoding.md R108). -/
def burstOp (op : Byte) : Byte := op &&& 0xF8#8

/-- The last row of 30_encoding.md R113: a burst write carries `L` data bytes after its low length byte, `1 <= L <=
BURST_MAX` (R108). A frame of another opcode is no burst (notes/assumptions/20.md). -/
def burstFits (cfg : Config) (op : Byte) (payload : List Byte) : Bool :=
  burstOp op != burstOp cfg.opBurstWrite ||
    (decide (2 ≤ payload.length) && decide (payload.length ≤ cfg.burstMax + 1))

/-- The frames the encoder does not refuse (30_encoding.md R113). -/
def Frame.encodable (cfg : Config) (f : Frame) : Bool :=
  match f.kind with
  | .simple => f.payload.length == countBits f.op && f.rcount == 1
  | .ext =>
    (f.op != cfg.opNull || f.payload.isEmpty) && decide (f.payload.length ≤ countMax) &&
      decide (f.rcount ≤ countMax) && burstFits cfg f.op f.payload

/-- `ENC_SIMPLE` (30_encoding.md R96): unused payload positions are zero (R98). -/
def encSimple (op : Byte) (payload : List Byte) : Word :=
  word4 op (payload.getD 0 0#8) (payload.getD 1 0#8) (payload.getD 2 0#8)

/-- The prefix word of an extended frame (30_encoding.md R100). -/
def encPrefix (wcount rcount : Nat) : Word := BitVec.ofNat 16 wcount ++ BitVec.ofNat 16 rcount

/-- `ENC_EXT` (30_encoding.md R101). -/
def encExt (op : Byte) (payload : List Byte) (rcount : Nat) : List Word :=
  encPrefix payload.length rcount :: packWords (op :: payload)

/-- `ENCODE` (41_command_protocol.md R180): none where it refuses. -/
def Frame.words (cfg : Config) (f : Frame) : Option (List Word) :=
  if f.encodable cfg then
    some (match f.kind with
      | .simple => [encSimple f.op f.payload]
      | .ext => encExt f.op f.payload f.rcount)
  else none

/-- The strobe pulses of a frame, fixed by its header (30_encoding.md R91). -/
def Frame.pulses (cfg : Config) (f : Frame) : Nat :=
  if f.op = cfg.opNull then 8 * f.rcount else 8 * (1 + f.payload.length) + 8 * f.rcount

/-- `{NR, 0[22:0], DATA}` (30_encoding.md R103). -/
def respBits (nr : Bool) (data : Byte) : Word := BitVec.ofBool nr ++ 0#23 ++ data

/-! ### The decoder -/

/-- The operation a HOP code selects, with its named arguments (30_encoding.md R120). -/
def decodeHop (code : Byte) (g : Args) : Except Reject Instr :=
  match code.toNat with
  | 0x01 => .ok (.leLoad g.variant)
  | 0x02 => .ok .leStart
  | 0x03 => .ok .leStop
  | 0x04 => .ok .leAbort
  | 0x05 => .ok .leDeinit
  | 0x06 => .ok (.leSwitch g.variant)
  | 0x07 => .ok .leAttach
  | 0x10 => .ok (.cpXchg { kind := g.kind, op := g.op, payload := g.bytes, rcount := g.rcount })
  | 0x20 => if g.addr < 65536 then .ok (.alWrite (BitVec.ofNat 16 g.addr) g.byte) else .error .operandRange
  | 0x21 => if g.addr < 65536 then .ok (.alRead (BitVec.ofNat 16 g.addr)) else .error .operandRange
  | 0x22 => if g.addr < 65536 then .ok (.alWriteBlock (BitVec.ofNat 16 g.addr) g.bytes) else .error .operandRange
  | 0x23 => .ok (.alReadBlockBanked g.addr g.len)
  | 0x30 => .ok (.idLookup g.byte)
  | 0x31 => .ok .idRead
  | 0x40 => .ok .fpErase
  | 0x41 => .ok .fpEnableDma
  | 0x42 => .ok (.fpConfigDma g.len)
  | 0x43 => .ok (.fpBurstLoad g.addr g.bytes)
  | 0x44 => .ok .fpProgram
  | 0x45 => .ok .fpClockInit
  | 0x46 => .ok (.fpWriteBlock g.addr g.bytes)
  | 0x50 => .ok (.frRead g.addr g.len)
  | 0x60 => .ok .toSessionStart
  | 0x61 => .ok (.toWriteAll g.src)
  | 0x62 => .ok (.toReadAll g.snk)
  | 0x63 => .ok .toRestart
  | 0x64 => .ok .toSessionEnd
  | _ => .error .unassignedHop

/-- A phase of the attach program. -/
def attachPhase (v : Variant) (i : Instr) : Except Reject Instr :=
  if v = .vAttach then .ok i else .error .phaseOfAnotherVariant

/-- A phase of the command program that only V_EXT has. -/
def extPhase (v : Variant) (i : Instr) : Except Reject Instr :=
  if v = .vExt then .ok i else .error .phaseOfAnotherVariant

/-- A phase that both command variants have. -/
def commandPhase (v : Variant) (i : Instr) : Except Reject Instr :=
  if v = .vSimple ∨ v = .vExt then .ok i else .error .phaseOfAnotherVariant

/-- The phase rule a phase code names under a variant (10_state.md R28). -/
def decodePhase (v : Variant) (code : Byte) : Except Reject Instr :=
  match code.toNat with
  | 0x00 => .ok .pStopped
  | 0x10 => attachPhase v .atAssert
  | 0x11 => attachPhase v .atHold
  | 0x12 => attachPhase v .atHi
  | 0x13 => attachPhase v .atHihold
  | 0x14 => attachPhase v .atLo
  | 0x15 => attachPhase v .atLohold
  | 0x16 => attachPhase v .atRelease
  | 0x17 => attachPhase v .atSettle
  | 0x18 => attachPhase v .atDone
  | 0x20 => if v = .vSimple then .ok .cIdleSimple else extPhase v .cIdleExt
  | 0x21 => extPhase v .cFetch0
  | 0x22 => commandPhase v .cDirout
  | 0x23 => commandPhase v .cTxset
  | 0x24 => commandPhase v .cTxhi
  | 0x25 => commandPhase v .cTxhold
  | 0x26 => commandPhase v .cTxlo
  | 0x27 => extPhase v .cRefill
  | 0x28 => commandPhase v .cDirin
  | 0x29 => commandPhase v .cSample
  | 0x2A => commandPhase v .cRxhi
  | 0x2B => commandPhase v .cRxhold
  | 0x2C => commandPhase v .cRxlo
  | 0x2D => commandPhase v .cPush
  | _ => .error .reservedPhase

/-- The code of a phase (10_state.md R28). -/
def Phase.code : Phase → Byte
  | .pStopped => 0x00#8
  | .atAssert => 0x10#8
  | .atHold => 0x11#8
  | .atHi => 0x12#8
  | .atHihold => 0x13#8
  | .atLo => 0x14#8
  | .atLohold => 0x15#8
  | .atRelease => 0x16#8
  | .atSettle => 0x17#8
  | .atDone => 0x18#8
  | .cIdle => 0x20#8
  | .cFetch0 => 0x21#8
  | .cDirout => 0x22#8
  | .cTxset => 0x23#8
  | .cTxhi => 0x24#8
  | .cTxhold => 0x25#8
  | .cTxlo => 0x26#8
  | .cRefill => 0x27#8
  | .cDirin => 0x28#8
  | .cSample => 0x29#8
  | .cRxhi => 0x2A#8
  | .cRxhold => 0x2B#8
  | .cRxlo => 0x2C#8
  | .cPush => 0x2D#8

/-- A simple word (30_encoding.md R96), or the null frame where the opcode byte is OP_NULL (R99). -/
def decodeSimple (cfg : Config) (w : Word) : Instr :=
  if wordByte w 0 = cfg.opNull then .null (w.extractLsb' 0 24)
  else .simpleWord (w.extractLsb' 26 6) (w.extractLsb' 24 2) (wordByte w 1) (wordByte w 2) (wordByte w 3)

/-- The prefix word (30_encoding.md R100). -/
def decodePrefix (w : Word) : Instr := .extPrefix (w.extractLsb' 16 16) (w.extractLsb' 0 16)

/-- A stream word (30_encoding.md R101). -/
def decodeStream (w : Word) : Instr := .extStreamWord (wordByte w 0) (wordByte w 1) (wordByte w 2) (wordByte w 3)

/-- The first stream word: an extended null frame where its first byte is OP_NULL (30_encoding.md R102, R114). -/
def decodeStream0 (cfg : Config) (w : Word) : Instr :=
  if wordByte w 0 = cfg.opNull then .extNull (w.extractLsb' 0 24) else decodeStream w

/-- A response word; bits 30:8 are ignored (30_encoding.md R103, 41_command_protocol.md R182). -/
def decodeResp (w : Word) : Instr := .respWord (w.getLsbD 31) (w.extractLsb' 0 8)

/-- The length a burst's opcode byte and first payload byte declare (30_encoding.md R108). -/
def burstLength (op low : Byte) : Nat := (op.toNat % 8) * 256 + low.toNat

/-- A debug instruction of one byte (30_encoding.md R109). DESIGN CHOICE (notes/assumptions/39.md): where two of the three
bytes agree, the first in the order store, load, increment is taken. -/
def decodeInstr1 (cfg : Config) (i0 : Byte) : Instr :=
  if i0 = cfg.iMovxSt then .tMovxSt
  else if i0 = cfg.iMovxLd then .tMovxLd
  else if i0 = cfg.iIncDptr then .tIncDptr
  else .debugInstr1 i0

/-- A debug instruction of two bytes (30_encoding.md R109). -/
def decodeInstr2 (cfg : Config) (i0 i1 : Byte) : Instr :=
  if i0 = cfg.iMovA then .tMovA i1 else .debugInstr2 i0 i1

/-- A debug instruction of three bytes (30_encoding.md R109; the address high byte first, 42_access_layer.md R214). -/
def decodeInstr3 (cfg : Config) (i0 i1 i2 : Byte) : Instr :=
  if i0 = cfg.iMovDptr then .tMovDptr (be16 i1 i2) else .debugInstr3 i0 i1 i2

/-- A command without payload. -/
def wantNone (i : Instr) : List Byte → Except Reject Instr
  | [] => .ok i
  | _ => .error .payloadLength

/-- A command with one payload byte. -/
def wantOne (f : Byte → Instr) : List Byte → Except Reject Instr
  | [a] => .ok (f a)
  | _ => .error .payloadLength

/-- A command with two payload bytes. -/
def wantTwo (f : Byte → Byte → Instr) : List Byte → Except Reject Instr
  | [a, b] => .ok (f a b)
  | _ => .error .payloadLength

/-- A command with three payload bytes. -/
def wantThree (f : Byte → Byte → Byte → Instr) : List Byte → Except Reject Instr
  | [a, b, c] => .ok (f a b c)
  | _ => .error .payloadLength

/-- A burst: the low length byte, then as many data bytes as declared (30_encoding.md R108). -/
def decodeBurst (op : Byte) : List Byte → Except Reject Instr
  | l :: data => if data.length = burstLength op l then .ok (.burstWrite data) else .error .payloadLength
  | [] => .error .payloadLength

/-- The command of an opcode byte and its payload (30_encoding.md R108 to R112). -/
def decodeOpcode (cfg : Config) (op : Byte) (pl : List Byte) : Except Reject Instr :=
  if op = cfg.opChipErase then wantNone .chipErase pl
  else if op = cfg.opWrConfig then wantOne .wrConfig pl
  else if op = cfg.opReadStatus then wantNone .readStatus pl
  else if op = cfg.opGetChipId then wantNone .getChipId pl
  else if op = cfg.opDebugInstr ||| 1#8 then wantOne (decodeInstr1 cfg) pl
  else if op = cfg.opDebugInstr ||| 2#8 then wantTwo (decodeInstr2 cfg) pl
  else if op = cfg.opDebugInstr ||| 3#8 then wantThree (decodeInstr3 cfg) pl
  else if burstOp op = burstOp cfg.opBurstWrite then decodeBurst op pl
  else .error .unassignedOpcode

/-- The target command a received frame is. -/
def decodeCommand (cfg : Config) : List Byte → Except Reject Instr
  | [] => .error .emptyCommand
  | op :: pl => decodeOpcode cfg op pl

/-- A DMA descriptor (30_encoding.md R106): high byte first. -/
def decodeDesc : List Byte → Except Reject Instr
  | [b0, b1, b2, b3, b4, b5, b6, b7] => .ok (.dmaDescriptor (be16 b0 b1) (be16 b2 b3) (be16 b4 b5) b6 b7)
  | _ => .error .descriptorLength

/-- The decoder: total, one format per place an instruction is fetched from (30_encoding.md R114). -/
def decode (cfg : Config) : Code → Except Reject Instr
  | .hop code args => decodeHop code args
  | .phase v code => decodePhase v code
  | .simple w => .ok (decodeSimple cfg w)
  | .extPrefix w => .ok (decodePrefix w)
  | .extStream0 w => .ok (decodeStream0 cfg w)
  | .extStream w => .ok (decodeStream w)
  | .command bytes => decodeCommand cfg bytes
  | .resp w => .ok (decodeResp w)
  | .desc bytes => decodeDesc bytes

/-! ### The encoder -/

/-- The bytes of a burst frame for its data (30_encoding.md R108): `[op, L[7:0]] ++ data`. -/
def burstBytes (cfg : Config) (data : List Byte) : List Byte :=
  (cfg.opBurstWrite ||| BitVec.ofNat 8 (data.length / 256)) :: BitVec.ofNat 8 data.length :: data

/-- `DESC(src, dst, len, c0, c1)` (30_encoding.md R106). -/
def descBytes (src dst len : Half) (c0 c1 : Byte) : List Byte :=
  [hi src, lo src, hi dst, lo dst, hi len, lo len, c0, c1]

/-- The encoder: the code of an instruction in the format of its row of spec/opcode_table.json. -/
def encode (cfg : Config) : Instr → Code
  | .leLoad v => .hop 0x01#8 { variant := v }
  | .leStart => .hop 0x02#8 {}
  | .leStop => .hop 0x03#8 {}
  | .leAbort => .hop 0x04#8 {}
  | .leDeinit => .hop 0x05#8 {}
  | .leSwitch v => .hop 0x06#8 { variant := v }
  | .leAttach => .hop 0x07#8 {}
  | .cpXchg f => .hop 0x10#8 { kind := f.kind, op := f.op, bytes := f.payload, rcount := f.rcount }
  | .alWrite a v => .hop 0x20#8 { addr := a.toNat, byte := v }
  | .alRead a => .hop 0x21#8 { addr := a.toNat }
  | .alWriteBlock a bs => .hop 0x22#8 { addr := a.toNat, bytes := bs }
  | .alReadBlockBanked a n => .hop 0x23#8 { addr := a, len := n }
  | .idLookup b => .hop 0x30#8 { byte := b }
  | .idRead => .hop 0x31#8 {}
  | .fpErase => .hop 0x40#8 {}
  | .fpEnableDma => .hop 0x41#8 {}
  | .fpConfigDma len => .hop 0x42#8 { len := len }
  | .fpBurstLoad a bs => .hop 0x43#8 { addr := a, bytes := bs }
  | .fpProgram => .hop 0x44#8 {}
  | .fpClockInit => .hop 0x45#8 {}
  | .fpWriteBlock a bs => .hop 0x46#8 { addr := a, bytes := bs }
  | .frRead a n => .hop 0x50#8 { addr := a, len := n }
  | .toSessionStart => .hop 0x60#8 {}
  | .toWriteAll src => .hop 0x61#8 { src := src }
  | .toReadAll snk => .hop 0x62#8 { snk := snk }
  | .toRestart => .hop 0x63#8 {}
  | .toSessionEnd => .hop 0x64#8 {}
  | .simpleWord op6 cnt p0 p1 p2 => .simple (word4 (op6 ++ cnt) p0 p1 p2)
  | .null ignored => .simple (cfg.opNull ++ ignored)
  | .chipErase => .command [cfg.opChipErase]
  | .wrConfig c => .command [cfg.opWrConfig, c]
  | .readStatus => .command [cfg.opReadStatus]
  | .debugInstr1 i0 => .command [cfg.opDebugInstr ||| 1#8, i0]
  | .debugInstr2 i0 i1 => .command [cfg.opDebugInstr ||| 2#8, i0, i1]
  | .debugInstr3 i0 i1 i2 => .command [cfg.opDebugInstr ||| 3#8, i0, i1, i2]
  | .tMovDptr a => .command [cfg.opDebugInstr ||| 3#8, cfg.iMovDptr, hi a, lo a]
  | .tMovA v => .command [cfg.opDebugInstr ||| 2#8, cfg.iMovA, v]
  | .tMovxSt => .command [cfg.opDebugInstr ||| 1#8, cfg.iMovxSt]
  | .tMovxLd => .command [cfg.opDebugInstr ||| 1#8, cfg.iMovxLd]
  | .tIncDptr => .command [cfg.opDebugInstr ||| 1#8, cfg.iIncDptr]
  | .extPrefix wcount rcount => .extPrefix (wcount ++ rcount)
  | .extStreamWord s0 s1 s2 s3 => .extStream (word4 s0 s1 s2 s3)
  | .extNull ignored => .extStream0 (cfg.opNull ++ ignored)
  | .getChipId => .command [cfg.opGetChipId]
  | .burstWrite data => .command (burstBytes cfg data)
  | .respWord nr data => .resp (respBits nr data)
  | .dmaDescriptor src dst len c0 c1 => .desc (descBytes src dst len c0 c1)
  | .pStopped => .phase .vNone 0x00#8
  | .atAssert => .phase .vAttach 0x10#8
  | .atHold => .phase .vAttach 0x11#8
  | .atHi => .phase .vAttach 0x12#8
  | .atHihold => .phase .vAttach 0x13#8
  | .atLo => .phase .vAttach 0x14#8
  | .atLohold => .phase .vAttach 0x15#8
  | .atRelease => .phase .vAttach 0x16#8
  | .atSettle => .phase .vAttach 0x17#8
  | .atDone => .phase .vAttach 0x18#8
  | .cIdleSimple => .phase .vSimple 0x20#8
  | .cIdleExt => .phase .vExt 0x20#8
  | .cFetch0 => .phase .vExt 0x21#8
  | .cDirout => .phase .vSimple 0x22#8
  | .cTxset => .phase .vSimple 0x23#8
  | .cTxhi => .phase .vSimple 0x24#8
  | .cTxhold => .phase .vSimple 0x25#8
  | .cTxlo => .phase .vSimple 0x26#8
  | .cRefill => .phase .vExt 0x27#8
  | .cDirin => .phase .vSimple 0x28#8
  | .cSample => .phase .vSimple 0x29#8
  | .cRxhi => .phase .vSimple 0x2A#8
  | .cRxhold => .phase .vSimple 0x2B#8
  | .cRxlo => .phase .vSimple 0x2C#8
  | .cPush => .phase .vSimple 0x2D#8

/-! ### A bare word of the table -/

/-- The bytes of a simple word that go on the wire: the opcode byte and as many payload bytes as its count bits say
(30_encoding.md R93, R98). -/
def sentBytes (w : Word) : List Byte :=
  [wordByte w 0, wordByte w 1, wordByte w 2, wordByte w 3].take (1 + countBits (wordByte w 0))

/-- The bytes of a burst whose first stream word is `w` and whose further words are zero. -/
def burstOfWord (w : Word) : List Byte :=
  [wordByte w 0, wordByte w 1] ++
    ([wordByte w 2, wordByte w 3] ++ List.replicate 2047 0#8).take (burstLength (wordByte w 0) (wordByte w 1))

/-- The variant under which a bare phase code is read: the one 10_state.md R28 lists first for it. -/
def phaseVariant (code : Nat) : Variant :=
  if code < 0x10 then .vNone
  else if code < 0x20 then .vAttach
  else if code = 0x21 ∨ code = 0x27 then .vExt
  else .vSimple

/-- The format a bare 32-bit word of the table is read in (notes/assumptions/8.md): a word carries no tag
(30_encoding.md R114), so one word of the table can stand for several of its rows, and one reading is taken here. -/
def tableWord (w : Word) : Code :=
  if wordByte w 0 = Config.default.opNull then
    if w = 0#32 then .simple w
    else if wordByte w 1 = 0#8 ∧ wordByte w 2 = 0#8 then .resp w
    else .extPrefix w
  else if w.extractLsb' 8 23 = 0#23 ∧ wordByte w 3 ≠ 0#8 then .resp w
  else if burstOp (wordByte w 0) = burstOp Config.default.opBurstWrite then .command (burstOfWord w)
  else
    match decodeCommand Config.default (sentBytes w) with
    | .ok _ => .command (sentBytes w)
    | .error _ => .simple w

/-- The code a bare word of `nbits` bits stands for, with zeros for all that the table gives no bits
(notes/assumptions/8.md): eight bits are a HOP code where R120 lists it, else a phase code; sixty-four are a
descriptor, byte 0 in bits 63:56. -/
def tableCode (nbits w : Nat) : Option Code :=
  if nbits = 8 then
    match decodeHop (BitVec.ofNat 8 w) {} with
    | .ok _ => some (.hop (BitVec.ofNat 8 w) {})
    | .error _ => some (.phase (phaseVariant w) (BitVec.ofNat 8 w))
  else if nbits = 32 then some (tableWord (BitVec.ofNat 32 w))
  else if nbits = 64 then
    let d := BitVec.ofNat 64 w
    some (.desc [d.extractLsb' 56 8, d.extractLsb' 48 8, d.extractLsb' 40 8, d.extractLsb' 32 8,
      d.extractLsb' 24 8, d.extractLsb' 16 8, d.extractLsb' 8 8, d.extractLsb' 0 8])
  else none

/-- The instruction the decoder reads from an instruction whose bits are `w`, under the spec's default parameters. -/
def decodeTableWord (nbits w : Nat) : Option Instr :=
  match tableCode nbits w with
  | none => none
  | some c =>
    match decode Config.default c with
    | .ok i => some i
    | .error _ => none

end Sys2Proof
end

