-- ==== Sys2Proof/Machine/State.lean ====
section
/-! DEFINITION. The state of the machine as plain data (10_state.md R20 to R51), the reasons a step can stop, and the
machine right after power-on (R49, 70_reset_and_hazards.md R330, R331). -/

namespace Sys2Proof.Machine

/-- `LE_LIFE` (10_state.md R26). -/
inductive Life
  | unloaded | loaded | running
  deriving DecidableEq, Repr

/-- `TXSEG` (10_state.md R29). -/
inductive Seg
  | segOp | segCnt | segData
  deriving DecidableEq, Repr

/-- `OWNER` (10_state.md R35). -/
inductive Owner
  | free | held
  deriving DecidableEq, Repr

/-- `CHIP_STATE` (10_state.md R37). -/
inductive ChipState
  | unset | identified | unidentified
  deriving DecidableEq, Repr

/-- The names of the chip-id table (43_flash_program.md R231). -/
inductive ChipName
  | cc2530 | cc2531 | cc2533 | cc2543 | cc2544 | cc2545
  deriving DecidableEq, Repr

/-- `FP_STATE` (10_state.md R38). -/
inductive FpState
  | idle | erasing | configDma | burst | programming | done | failed
  deriving DecidableEq, Repr

/-- `TO_MODE` (10_state.md R40). -/
inductive ToMode
  | none | read | write
  deriving DecidableEq, Repr

/-- The failures that are raised (60_exceptions.md R290); a StorageError carries the collaborator's detail (R296). -/
inductive Failure
  | linkTimeout
  | chipUnidentified
  | eraseTimeout
  | programTimeout
  | storageError (detail : Nat)
  deriving DecidableEq, Repr

/-- What the operation that ended last returned to the host context (00_scope.md R12, R120). -/
inductive Result
  /-- Nothing has ended yet. -/
  | none
  /-- The operation returned without a value. -/
  | unit
  /-- `Ok(bytes)`, or the byte or bytes an operation reads. -/
  | bytes (bs : List Byte)
  /-- The two bytes of `ID.READ`. -/
  | ident (id rev : Byte)
  /-- The answer of `ID.LOOKUP`; none is "unidentified". -/
  | name (n : Option ChipName)
  /-- `Done(blocks, early)` of `TO.WRITE_ALL`. -/
  | doneWrite (blocks : Nat) (early : Bool)
  /-- `Done(blocks)` of `TO.READ_ALL`. -/
  | doneRead (blocks : Nat)
  /-- A typed failure (60_exceptions.md R290). -/
  | failed (f : Failure)
  /-- `Refused` (60_exceptions.md R297). -/
  | refused
  deriving DecidableEq, Repr

/-- The four instances of the timeout source (10_state.md R45). -/
inductive TimerId
  | tmo | tmoErase | tmoProg | tmoLink2
  deriving DecidableEq, Repr

/-- One instance of the timeout source: the ceiling of its last `arm`, whether `expired()` has answered true since, and
the answers the environment will give (the model's own field: inputs). -/
structure Timer where
  ceiling : Nat := 0
  expired : Bool := false
  answers : List Bool := []
  deriving DecidableEq, Repr

/-- A working register of the sequencer: what it holds, and whether a phase rule has written it in the current run
(10_state.md R30). One that is not written reads as a free value. -/
structure Reg (α : Type) where
  val : α
  written : Bool
  deriving DecidableEq, Repr

/-- An operation another operation is composed of. -/
inductive SubOp
  | attach
  | xchg (f : Frame)
  | write (a : Half) (v : Byte)
  | read (a : Half)
  | writeBlock (a : Half) (bs : List Byte)
  | readBanked (a n : Nat)
  | idRead
  | erase
  | enableDma
  | configDma (len : Nat)
  | burstLoad (a : Nat) (bs : List Byte)
  | program
  | clockInit
  | programBlock (a : Nat) (bs : List Byte)
  | flashRead (a n : Nat)
  deriving DecidableEq, Repr

/-- What the host context still has to do for the operation in progress (00_scope.md R13): one entry per point of the
pseudocode of files 40 to 60 at which the host context waits, tests or calls another operation. -/
inductive Task
  /-- Call an operation. -/
  | op (o : SubOp)
  /-- `wait until LE_DONE = 1` (40_link_engine.md R139). -/
  | waitDone
  /-- `SEND` (41_command_protocol.md R184): the words not yet pushed. -/
  | send (words : List Word)
  /-- `RECV` and what follows it in `CP.XCHG` (41_command_protocol.md R185, R186, R190, R191). -/
  | await (f : Frame)
  /-- `arm` of a timer. -/
  | arm (t : TimerId)
  /-- Return without a value. -/
  | retUnit
  /-- The return of `ID.READ` (43_flash_program.md R232). -/
  | idRet
  /-- The rest of `TO.SESSION_START` after `ID.READ` (43_flash_program.md R233). -/
  | identify
  /-- `DMA_ENABLED <- 1` (43_flash_program.md R240). -/
  | dmaEnabled
  /-- One turn of the erase poll, and its tests (43_flash_program.md R239). -/
  | erasePoll
  | eraseTest
  /-- The end of `FP.CONFIG_DMA` (43_flash_program.md R242). -/
  | configDone (len : Nat)
  /-- The end of `FP.BURST_LOAD` (43_flash_program.md R246). -/
  | burstDone
  /-- One turn of the program poll, and its tests (43_flash_program.md R253). -/
  | progPoll
  | progTest
  /-- One turn of the clock wait, and its tests (43_flash_program.md R236). -/
  | clockPoll
  | clockTest
  /-- The outer loop of `AL.READ_BLOCK_BANKED` at flat address `a` with `n` bytes to go and `out` read
  (44_flash_read_and_transfer.md R271). -/
  | readSeg (a n : Nat) (out : List Byte)
  /-- The inner loop, with `m` bytes left in this bank. -/
  | readByte (m a n : Nat) (out : List Byte)
  /-- The byte of the last load is taken. -/
  | readGot (m a n : Nat) (out : List Byte)
  /-- The loop of `TO.WRITE_ALL` with the source's answers to come, the end of one block, and the end of the pass
  (44_flash_read_and_transfer.md R276). -/
  | writeLoop (src : List Fill)
  | blockDone
  | writeEnd
  /-- The loop of `TO.READ_ALL` and its `append` (44_flash_read_and_transfer.md R280). -/
  | readLoop (snk : List Ack)
  | appendBlock (snk : List Ack)
  /-- `SLEEP(d)` (10_state.md R46). -/
  | sleep (d : Nat)
  /-- `OWNER <- FREE` at the end of `TO.RESTART` (60_exceptions.md R306). -/
  | release
  deriving DecidableEq, Repr

/-- A request of the host: a HOP code and its named arguments (30_encoding.md R120). -/
structure Request where
  hop : Byte
  args : Args
  deriving DecidableEq, Repr

/-- A decoded response word that `RECV` has popped (41_command_protocol.md R182, R185). -/
structure Resp where
  nr : Bool
  data : Byte
  deriving DecidableEq, Repr

/-- Which agent moves (00_scope.md R13): the host context, the sequencer, the target, the target's DMA controller. -/
inductive Agent
  | host | sequencer | target | dma
  deriving DecidableEq, Repr

/-- One answer of the environment on the data line while the block's driver is off (10_state.md R23). -/
inductive Drive
  /-- The target drives this level. -/
  | level (b : Bool)
  /-- Nobody drives: the line is pulled up. -/
  | released
  /-- The target drives what the contract of 20_memory.md R79 and R80 says. -/
  | answering
  deriving DecidableEq, Repr

/-- What a triggered transfer is: that of one of the two DMA channels of the target (43_flash_program.md R245: A is
channel 0, B is channel 1), or one triggered before the target's state was lost, of which nothing is known
(20_memory.md R82). -/
inductive Channel
  | chA | chB | chUnknown
  deriving DecidableEq, Repr

/-- A space of bytes by address, in canonical form: addresses strictly rising. An address that is not listed holds no
value the block knows (notes/assumptions/9.md). -/
abbrev Memory := List Host.Cell

/-- The target, as far as the environment contract of 20_memory.md R78 to R82 and the target registers of 10_state.md
R41 to R44 describe it. It is state of the environment, not of the block (R43): no rule of the block reads it. -/
structure Target where
  /-- The target is in debug mode and in step with the frames (20_memory.md R79, R82). -/
  inDebug : Bool
  /-- Falling strobe edges since reset went low (20_memory.md R79). -/
  falls : Nat
  /-- The bits of the frame in progress, as taken at the strobe's falling edges (20_memory.md R79). -/
  bits : List Bool
  /-- Frames received whole and not yet executed, oldest first (20_memory.md R80). -/
  inbox : List (List Byte)
  /-- The response bits the contract says come next (20_memory.md R79, R80). -/
  resp : List Bool
  /-- The pointer register (10_state.md R43). -/
  dptr : Half
  /-- The accumulator (10_state.md R43). -/
  acc : Byte
  /-- The debug configuration byte (10_state.md R42). -/
  config : Byte
  /-- Target XDATA (20_memory.md R60): the bytes whose value is known. -/
  xdata : Memory
  /-- Target flash (20_memory.md R60): the bytes whose value is known. -/
  flash : Memory
  /-- A chip erase has been executed and flash not lost sight of since (20_memory.md R69). -/
  erased : Bool
  /-- Channel A is armed (20_memory.md R69). -/
  armedA : Bool
  /-- Channel B is armed (20_memory.md R69). -/
  armedB : Bool
  /-- The bytes known to have reached the debug-data buffer and to wait for channel A (20_memory.md R69, R81). -/
  dbg : List Byte
  /-- Transfers that have been triggered and not yet made (20_memory.md R81). -/
  pending : List Channel
  deriving DecidableEq, Repr

/-- The whole state. INVENTORY.md lists every field with its rule and its reset value. -/
structure State where
  /-- The parameters (00_scope.md R6 to R8); no step writes them. -/
  cfg : Config
  /-- `PINS_OUT[2:0]` (10_state.md R21): bit 0 data, bit 1 strobe, bit 2 reset (R22). -/
  pinsOut : BitVec 3
  /-- `PINS_OE[2:0]` (10_state.md R21). -/
  pinsOe : BitVec 3
  /-- `LE_LIFE` (10_state.md R26). -/
  life : Life
  /-- `LE_DONE` (10_state.md R26). -/
  leDone : Bool
  /-- `LE_VARIANT` (10_state.md R27). -/
  variant : Variant
  /-- `LE_PHASE` (10_state.md R28). -/
  phase : Phase
  /-- `OSR`, 32 bits (10_state.md R29, as are the ten that follow). -/
  osr : Reg Word
  /-- `OSRB`, 3 bits. -/
  osrb : Reg (BitVec 3)
  /-- `OPC`, 8 bits. -/
  opc : Reg Byte
  /-- `TXSEG`. -/
  txseg : Reg Seg
  /-- `BITCNT`, 4 bits. -/
  bitcnt : Reg (BitVec 4)
  /-- `WCNT`, 16 bits. -/
  wcnt : Reg Half
  /-- `RCNT`, 16 bits. -/
  rcnt : Reg Half
  /-- `ISR`, 8 bits. -/
  isr : Reg Byte
  /-- `NR`, 1 bit. -/
  nr : Reg Bool
  /-- `HOLDCNT`, as wide as `N_RST_HOLD`. -/
  holdcnt : Reg Nat
  /-- `FALLS`, 2 bits. -/
  falls : Reg (BitVec 2)
  /-- `TXF` (10_state.md R32), oldest word first. -/
  txf : List Word
  /-- `RXF` (10_state.md R32), oldest word first. -/
  rxf : List Word
  /-- `OWNER` (10_state.md R35). -/
  owner : Owner
  /-- `CHIP_STATE` (10_state.md R37). -/
  chipState : ChipState
  /-- `CHIP_ID` (10_state.md R37). -/
  chipId : Byte
  /-- `CHIP_REV` (10_state.md R37). -/
  chipRev : Byte
  /-- `CHIP_NAME` (10_state.md R37): an entry of the table or none. -/
  chipName : Option ChipName
  /-- `DMA_ENABLED` (10_state.md R37). -/
  dmaEnabled : Bool
  /-- `FP_STATE` (10_state.md R38). -/
  fpState : FpState
  /-- `FP_LEN`, 16 bits (10_state.md R36). -/
  fpLen : Half
  /-- `ERR`, 3 bits (10_state.md R39). -/
  err : BitVec 3
  /-- `EOI` (10_state.md R39). -/
  eoi : Bool
  /-- `TO_MODE` (10_state.md R40). -/
  toMode : ToMode
  /-- `TO_NBLK`, 19 bits (10_state.md R40). -/
  toNblk : BitVec 19
  /-- `TO_BLK`, 19 bits (10_state.md R40). -/
  toBlk : BitVec 19
  /-- `TO_OFF`, 19 bits (10_state.md R40). -/
  toOff : BitVec 19
  /-- `BUF` (10_state.md R40). -/
  buf : List Byte
  /-- `TMO` (10_state.md R45: an input; its law makes the latch state). -/
  tmo : Timer
  /-- `TMO_ERASE` (10_state.md R45). -/
  tmoErase : Timer
  /-- `TMO_PROG` (10_state.md R45). -/
  tmoProg : Timer
  /-- `TMO_LINK2` (10_state.md R45). -/
  tmoLink2 : Timer
  /-- The host's requests not yet begun, oldest first (the model's own field: inputs). -/
  req : List Request
  /-- The rest of the operation in progress, innermost first; empty when the host context is idle. -/
  tasks : List Task
  /-- The response words popped so far by the `RECV` in progress. -/
  ws : List Resp
  /-- What the operation that ended last returned. -/
  result : Result
  /-- The blocks appended to the sink of the last read pass (the model's own field: output). -/
  sunk : List (List Byte)
  /-- The target (20_memory.md R78 to R82). -/
  target : Target
  /-- Which agents move next (the model's own field: inputs). -/
  turns : List Agent
  /-- The environment's next answers on the data line (the model's own field: inputs). -/
  dd : List Drive
  /-- Steps taken: the argument of the free values (the model's own field). -/
  clock : Nat
  deriving DecidableEq, Repr

/-- Why the machine stops with a fault. -/
inductive Fault
  /-- Raised by the sequencer's fetch: `LE_PHASE` names a phase that the loaded variant does not have (10_state.md R28).
  No run from reset reaches it (93_implementation_defined.md G16: "fault if met"). Safe. -/
  | illegalPhase (v : Variant) (code : Byte)
  deriving DecidableEq, Repr

/-- Why the machine refuses an instruction. An operation the SPEC refuses is no refusal of the machine: it returns
`Refused` and the run goes on (60_exceptions.md R297). -/
inductive Refusal
  /-- Raised by exec for a row that has no meaning yet; no row is left so. Safe. -/
  | notModelled (mnemonic : String)
  deriving DecidableEq, Repr

/-- A working register that holds no value. What stands in it is never read: see `Reg.read` (notes/assumptions/6.md). -/
def Reg.unwritten {α : Type} (a : α) : Reg α := { val := a, written := false }

/-- The target before the first attach: nothing is known of it (20_memory.md R78, notes/assumptions/10.md). -/
def Target.atPowerOn : Target where
  inDebug := false
  falls := 0
  bits := []
  inbox := []
  resp := []
  dptr := 0#16
  acc := 0#8
  config := 0#8
  xdata := []
  flash := []
  erased := false
  armedA := false
  armedB := false
  dbg := []
  pending := []

/-- The machine right after power-on (10_state.md R49, the middle column; the fields R49 calls unspecified at the values
of notes/assumptions/10.md and 6.md; no request, no input listed). -/
def State.reset : State where
  cfg := Config.default
  pinsOut := 0b100#3
  pinsOe := 0b110#3
  life := .unloaded
  leDone := false
  variant := .vNone
  phase := .pStopped
  osr := Reg.unwritten 0#32
  osrb := Reg.unwritten 0#3
  opc := Reg.unwritten 0#8
  txseg := Reg.unwritten .segOp
  bitcnt := Reg.unwritten 0#4
  wcnt := Reg.unwritten 0#16
  rcnt := Reg.unwritten 0#16
  isr := Reg.unwritten 0#8
  nr := Reg.unwritten false
  holdcnt := Reg.unwritten 0
  falls := Reg.unwritten 0#2
  txf := []
  rxf := []
  owner := .free
  chipState := .unset
  chipId := 0#8
  chipRev := 0#8
  chipName := none
  dmaEnabled := false
  fpState := .idle
  fpLen := 0#16
  err := 0#3
  eoi := false
  toMode := .none
  toNblk := 0#19
  toBlk := 0#19
  toOff := 0#19
  buf := List.replicate 512 0#8
  tmo := {}
  tmoErase := {}
  tmoProg := {}
  tmoLink2 := {}
  req := []
  tasks := []
  ws := []
  result := .none
  sunk := []
  target := Target.atPowerOn
  turns := []
  dd := []
  clock := 0

end Sys2Proof.Machine
end

