-- ==== Sys2Proof/Machine/Ops.lean ====
section
/-! DEFINITION. The shared operations over memory, registers, pins, FIFOs, timers and the host context; taking a failure
(60_exceptions.md R300) and what stands for the return from one (R301, R306). -/

namespace Sys2Proof.Machine

/-! ### Memory -/

/-- The byte at an address, if the block knows it. -/
def Memory.read : Memory → Nat → Option Byte
  | [], _ => none
  | (k, b) :: m, a => if k = a then some b else Memory.read m a

/-- Store a byte, keeping the addresses strictly rising. -/
def Memory.write : Memory → Nat → Byte → Memory
  | [], a, v => [(a, v)]
  | (k, b) :: m, a, v =>
    if a < k then (a, v) :: (k, b) :: m
    else if a = k then (a, v) :: m
    else (k, b) :: Memory.write m a v

/-- Lose sight of the byte at an address. -/
def Memory.erase : Memory → Nat → Memory
  | [], _ => []
  | (k, b) :: m, a => if k = a then m else (k, b) :: Memory.erase m a

/-- Store bytes at consecutive addresses. -/
def Memory.writeBytes : Memory → Nat → List Byte → Memory
  | m, _, [] => m
  | m, a, v :: vs => Memory.writeBytes (Memory.write m a v) (a + 1) vs

/-- The bytes at `n` consecutive addresses, if the block knows them all. -/
def Memory.readBytes (m : Memory) (a : Nat) : Nat → Option (List Byte)
  | 0 => some []
  | n + 1 =>
    match Memory.read m a, Memory.readBytes m (a + 1) n with
    | some b, some bs => some (b :: bs)
    | _, _ => none

/-- The canonical form: every address above `k`, strictly rising. -/
def Memory.risingFrom : Nat → Memory → Bool
  | _, [] => true
  | k, (a, _) :: m => decide (k ≤ a) && Memory.risingFrom (a + 1) m

/-- The canonical form of a memory (notes/assumptions/9.md). -/
def Memory.wf (m : Memory) : Bool := Memory.risingFrom 0 m

/-! ### Working registers (10_state.md R29, R30) -/

/-- A register after a phase rule has written it. -/
def Reg.of {α : Type} (a : α) : Reg α := { val := a, written := true }

/-- What a register reads as: its value once written, else a free value (R30, notes/assumptions/6.md). -/
def Reg.read {α : Type} (r : Reg α) (free : α) : α := if r.written then r.val else free

/-- A free value for `TXSEG`. -/
def freeSeg (n : Nat) : Seg :=
  match (Config.freeRegister 3 n).toNat % 3 with
  | 0 => .segOp
  | 1 => .segCnt
  | _ => .segData

/-- `OSR` as a phase rule reads it. -/
def State.rdOsr (s : State) : Word := s.osr.read (Config.freeRegister 0 s.clock)
/-- `OSRB` as a phase rule reads it. -/
def State.rdOsrb (s : State) : BitVec 3 := s.osrb.read (Config.freeRegister 1 s.clock |>.extractLsb' 0 3)
/-- `TXSEG` as a phase rule reads it. -/
def State.rdTxseg (s : State) : Seg := s.txseg.read (freeSeg s.clock)
/-- `BITCNT` as a phase rule reads it. -/
def State.rdBitcnt (s : State) : BitVec 4 := s.bitcnt.read (Config.freeRegister 4 s.clock |>.extractLsb' 0 4)
/-- `WCNT` as a phase rule reads it. -/
def State.rdWcnt (s : State) : Half := s.wcnt.read (Config.freeRegister 5 s.clock |>.extractLsb' 0 16)
/-- `RCNT` as a phase rule reads it. -/
def State.rdRcnt (s : State) : Half := s.rcnt.read (Config.freeRegister 6 s.clock |>.extractLsb' 0 16)
/-- `ISR` as a phase rule reads it. -/
def State.rdIsr (s : State) : Byte := s.isr.read (Config.freeRegister 7 s.clock |>.extractLsb' 0 8)
/-- `NR` as a phase rule reads it. -/
def State.rdNr (s : State) : Bool := s.nr.read (Config.freeRegister 8 s.clock |>.getLsbD 0)
/-- `HOLDCNT` as a phase rule reads it. -/
def State.rdHoldcnt (s : State) : Nat := s.holdcnt.read (Config.freeRegister 9 s.clock).toNat
/-- `FALLS` as a phase rule reads it. -/
def State.rdFalls (s : State) : BitVec 2 := s.falls.read (Config.freeRegister 10 s.clock |>.extractLsb' 0 2)

/-! ### Pins (10_state.md R21 to R25) -/

/-- A pin register with one line set to a level. -/
def setLine (v : BitVec 3) (line : Nat) (b : Bool) : BitVec 3 :=
  if b then v ||| (1#3 <<< line) else v &&& ~~~(1#3 <<< line)

/-- `DD_OUT`, bit 0 of PINS_OUT (R22). -/
def ddOf (v : BitVec 3) : Bool := v.getLsbD 0
/-- `DC_OUT`, bit 1 of PINS_OUT (R22). -/
def dcOf (v : BitVec 3) : Bool := v.getLsbD 1
/-- `RSTN_OUT`, bit 2 of PINS_OUT (R22). -/
def rstnOf (v : BitVec 3) : Bool := v.getLsbD 2

/-- `DD_OUT`. -/
def State.ddOut (s : State) : Bool := ddOf s.pinsOut
/-- `DC_OUT`. -/
def State.dcOut (s : State) : Bool := dcOf s.pinsOut
/-- `RSTN_OUT`. -/
def State.rstnOut (s : State) : Bool := rstnOf s.pinsOut
/-- `DD_OE`, bit 0 of PINS_OE. -/
def State.ddOe (s : State) : Bool := ddOf s.pinsOe

/-- The number of a line's pin on the host microcontroller (R22): data, strobe, reset are lines 0, 1, 2. -/
def pinNumber (cfg : Config) (line : Nat) : Nat := cfg.pinBase + line

/-! ### What the target sees of the wire (20_memory.md R78, R79) -/

/-- Nothing is known of what the target holds any more (20_memory.md R82, notes/assumptions/7.md). What the target has
taken from the wire and has still to give on it stays. The transfers already triggered are still made (60_exceptions.md
R293), each as one of which nothing is known, and the bytes that wait for them are known no more (R82,
93_implementation_defined.md G3). -/
def Target.forget (t : Target) (n : Nat) : Target :=
  { t with
    dptr := Config.freeHalf n 0
    acc := Config.freeByte n 0
    config := Config.freeByte n 1
    xdata := []
    flash := []
    erased := false
    armedA := false
    armedB := false
    dbg := []
    pending := t.pending.map fun _ => .chUnknown }

/-- The target executes a frame of which nothing is known: neither what it does nor that it answers
(93_implementation_defined.md G5, notes/assumptions/7.md). -/
def Target.unknownCommand (t : Target) (n : Nat) : Target := { t.forget n with resp := [] }

/-- The target is reset (20_memory.md R82, 70_reset_and_hazards.md R332): only flash is still known. DESIGN CHOICE
(notes/assumptions/7.md): no transfer survives the reset. -/
def Target.hold (t : Target) (n : Nat) : Target :=
  { t.forget n with
    inDebug := false, falls := 0, bits := [], inbox := [], resp := [], flash := t.flash, erased := t.erased
    pending := [] }

/-- The target is out of step with the frames (40_link_engine.md R135, R136): a frame was cut. -/
def Target.lose (t : Target) (n : Nat) : Target :=
  { t.forget n with inDebug := false, bits := [], inbox := [], resp := [] }

/-- What a change of the pins does to the target (20_memory.md R79): reset falling resets it; a falling strobe edge is
counted while reset is low, and otherwise takes one bit while the block drives the data line; reset rising after two
falling edges puts it in debug mode; the data driver going off ends the bits of a frame (42_access_layer.md R211). -/
def Target.sees (t : Target) (n : Nat) (out oe out' oe' : BitVec 3) : Target :=
  if rstnOf out && !rstnOf out' then t.hold n
  else if dcOf out && !dcOf out' then
    if !rstnOf out' then { t with falls := t.falls + 1 }
    else if ddOf oe' then { t with bits := t.bits ++ [ddOf out'] }
    else t
  else if !rstnOf out && rstnOf out' then { t with inDebug := t.falls == nAttachFalls }
  else if ddOf oe && !ddOf oe' && !t.bits.isEmpty then
    { t with inbox := t.inbox ++ [packBits t.bits], bits := [] }
  else t

/-- Write the pin registers. The one operation by which a phase rule or a lifecycle operation changes a pin. -/
def State.drive (s : State) (out oe : BitVec 3) : State :=
  { s with pinsOut := out, pinsOe := oe, target := s.target.sees s.clock s.pinsOut s.pinsOe out oe }

/-- `DC_OUT <- b`. -/
def State.setDc (s : State) (b : Bool) : State := s.drive (setLine s.pinsOut 1 b) s.pinsOe

/-- `DD_OE <- b`. -/
def State.setDdOe (s : State) (b : Bool) : State := s.drive s.pinsOut (setLine s.pinsOe 0 b)

/-- `DD_OUT <- b`. -/
def State.setDd (s : State) (b : Bool) : State := s.drive (setLine s.pinsOut 0 b) s.pinsOe

/-! ### The data line as the block sees it (10_state.md R23) -/

/-- `DD_IN` (R23): the block's own level while its driver is on; else the target's level, 1 where nobody drives, and
where no answer is listed a free value (notes/assumptions/4.md). `contract` is the level the contract says. -/
def State.ddIn (s : State) (contract : Bool) : Bool :=
  if s.ddOe then s.ddOut
  else
    match s.dd with
    | [] => Config.freeDd s.clock
    | .level b :: _ => b
    | .released :: _ => true
    | .answering :: _ => contract

/-- Whether the answer in hand is "as the contract says". -/
def State.answering (s : State) : Bool :=
  match s.dd with
  | .answering :: _ => true
  | _ => false

/-- The level by which the target says it is ready or not (20_memory.md R80): it is once it has executed every frame it
has received and has a response. DESIGN CHOICE (notes/assumptions/44.md): before the second or a later byte of a response as
well, where the level has no meaning. -/
def State.readySignal (s : State) : Bool :=
  if s.target.inbox.isEmpty && !s.target.resp.isEmpty then s.cfg.readyLevel else !s.cfg.readyLevel

/-- The target presents response bits: every frame received is executed, and the sample that began this byte found it
ready (20_memory.md R80; 93_implementation_defined.md G4, G8). DESIGN CHOICE (notes/assumptions/44.md): the sample of a second
or later byte decides that for its own bits. -/
def State.presenting (s : State) : Bool := s.target.inbox.isEmpty && !s.rdNr

/-- The response bit the target presents (20_memory.md R79); any value where it has none
(93_implementation_defined.md G5, G8). -/
def State.responseBit (s : State) : Bool :=
  if s.presenting then s.target.resp.headD (Config.freeDd s.clock) else Config.freeDd s.clock

/-! ### Timers (10_state.md R45) -/

/-- `arm(ceiling)`. -/
def Timer.arm (t : Timer) (ceiling : Nat) : Timer := { t with ceiling := ceiling, expired := false }

/-- What `expired()` answers: true once it has answered true since the last `arm`; else the next listed answer, else a
free value (R45, notes/assumptions/5.md). -/
def Timer.expires (t : Timer) (free : Bool) : Bool :=
  t.expired || (match t.answers with | [] => free | b :: _ => b)

/-- The timer after `expired()` has been asked. -/
def Timer.asked (t : Timer) (free : Bool) : Timer :=
  { t with expired := t.expires free, answers := if t.expired then t.answers else t.answers.tail }

/-- One of the four instances. -/
def State.timer (s : State) : TimerId → Timer
  | .tmo => s.tmo
  | .tmoErase => s.tmoErase
  | .tmoProg => s.tmoProg
  | .tmoLink2 => s.tmoLink2

/-- Write one of the four instances. -/
def State.setTimer (s : State) (i : TimerId) (t : Timer) : State :=
  match i with
  | .tmo => { s with tmo := t }
  | .tmoErase => { s with tmoErase := t }
  | .tmoProg => { s with tmoProg := t }
  | .tmoLink2 => { s with tmoLink2 := t }

/-- The number a timer has as the first argument of the free value. -/
def TimerId.index : TimerId → Nat
  | .tmo => 0
  | .tmoErase => 1
  | .tmoProg => 2
  | .tmoLink2 => 3

/-- The ceiling a timer is armed with (10_state.md R45). -/
def TimerId.ceiling (cfg : Config) : TimerId → Nat
  | .tmo => cfg.timeoutCeiling
  | .tmoErase => cfg.eraseCeiling
  | .tmoProg => cfg.programCeiling
  | .tmoLink2 => cfg.timeoutCeiling

/-- Arm a timer with its ceiling. -/
def State.armTimer (s : State) (i : TimerId) : State :=
  s.setTimer i ((s.timer i).arm (TimerId.ceiling s.cfg i))

/-- The answer of a timer's `expired()`. -/
def State.expired (s : State) (i : TimerId) : Bool :=
  (s.timer i).expires (Config.freeExpired i.index s.clock)

/-- The state after that answer. -/
def State.askTimer (s : State) (i : TimerId) : State :=
  s.setTimer i ((s.timer i).asked (Config.freeExpired i.index s.clock))

/-! ### The host context -/

/-- Call: what is listed is done next, before what was still to do. -/
def State.push (s : State) (ts : List Task) : State := { s with tasks := ts ++ s.tasks }

/-- Return a result. -/
def State.ret (s : State) (r : Result) : State := { s with result := r }

/-- `refuse` (00_scope.md R10, 60_exceptions.md R297): nothing changes but the result; an operation that had called the
refused one ends with the same result (notes/assumptions/12.md). -/
def State.refuse (s : State) : State := { s with tasks := [], result := .refused }

/-- An operation of the host context: its effect where its requirement holds, else a refusal. -/
def issue (ok : Bool) (s t : State) : Host.Outcome State Fault Refusal := .next (if ok then t else s.refuse)

/-- The requirement of every operation but `TO.SESSION_START` (10_state.md R35). -/
def State.held (s : State) : Bool := s.owner == .held

/-! ### Failure entry (60_exceptions.md R290, R300) -/

/-- The code of a failure in ERR (R290). -/
def Failure.code : Failure → BitVec 3
  | .linkTimeout => 1#3
  | .chipUnidentified => 2#3
  | .eraseTimeout => 3#3
  | .programTimeout => 4#3
  | .storageError _ => 6#3

/-- What the block may still know of the target after a failure (20_memory.md R82, 60_exceptions.md R293): after a
LinkTimeout nothing, after an erase or program timeout only that the link is healthy. -/
def Target.afterFailure (t : Target) (n : Nat) : Failure → Target
  | .linkTimeout => t.lose n
  | .eraseTimeout => t.forget n
  | .programTimeout => t.forget n
  | .chipUnidentified => t
  | .storageError _ => t

/-- `raise F` (R300): ERR takes the code, FP_STATE becomes FP_FAILED unless it is FP_DONE, and the operation in progress
with every enclosing one ends and returns F (41_command_protocol.md R192). There is no return from it (R301); the one
way on is `TO.RESTART` (R306, Machine/Orchestrator.lean). -/
def State.raise (s : State) (f : Failure) : State :=
  { s with
    err := f.code
    fpState := if s.fpState = .done then .done else .failed
    tasks := []
    result := .failed f
    target := s.target.afterFailure s.clock f }

/-! ### Link Engine lifecycle (40_link_engine.md R133 to R137) -/

/-- `LE.LOAD v` (R133). -/
def State.load (s : State) (v : Variant) : State := { s with variant := v, life := .loaded }

/-- `LE.START` (R134). -/
def State.start (s : State) : State :=
  { s with life := .running, leDone := false, phase := if s.variant = .vAttach then .atAssert else .cIdle }

/-- Whether an abort at this phase cuts nothing: no frame and no attach is in progress. -/
def phaseQuiet : Phase → Bool
  | .cIdle => true
  | .atDone => true
  | .pStopped => true
  | _ => false

/-- PINS_OUT after an abort (R136): strobe low, and under V_ATTACH reset high. -/
def State.abortOut (s : State) : BitVec 3 :=
  if s.variant = .vAttach then setLine (setLine s.pinsOut 1 false) 2 true else setLine s.pinsOut 1 false

/-- `LE.ABORT` (R136): both FIFOs cleared, strobe low, data line an input, every working register unwritten, the phase
the variant's resting phase. -/
def State.abort (s : State) : State :=
  { s with
    txf := []
    rxf := []
    pinsOut := s.abortOut
    pinsOe := setLine s.pinsOe 0 false
    osr := Reg.unwritten 0#32
    osrb := Reg.unwritten 0#3
    opc := Reg.unwritten 0#8
    txseg := Reg.unwritten .segOp
    bitcnt := Reg.unwritten 0#4
    wcnt := Reg.unwritten 0#16
    rcnt := Reg.unwritten 0#16
    isr := Reg.unwritten 0#8
    nr := Reg.unwritten false
    holdcnt := Reg.unwritten 0
    falls := Reg.unwritten 0#2
    leDone := if s.variant = .vAttach then false else s.leDone
    phase := if s.variant = .vAttach then .atDone else .cIdle
    target :=
      if phaseQuiet s.phase then s.target.sees s.clock s.pinsOut s.pinsOe s.abortOut (setLine s.pinsOe 0 false)
      else s.target.lose s.clock }

/-- `LE.STOP` (R135): the effects of `LE.ABORT`, then stopped. -/
def State.stop (s : State) : State := { s.abort with life := .loaded, phase := .pStopped }

/-- `LE.DEINIT` (R137). -/
def State.deinit (s : State) : State := { s with variant := .vNone, life := .unloaded }

/-- `if LE_LIFE = RUNNING: LE.STOP ; if LE_LIFE = LOADED: LE.DEINIT` (R138, R139, 60_exceptions.md R305). -/
def State.teardown (s : State) : State :=
  match s.life with
  | .running => s.stop.deinit
  | .loaded => s.deinit
  | .unloaded => s

/-- `LE.SWITCH v` (R138). -/
def State.switch (s : State) (v : Variant) : State :=
  if s.life = .running ∧ s.variant = v then s else (s.teardown.load v).start

/-- `LE.ABORT ; raise LinkTimeout` (41_command_protocol.md R189). Inside CP.XCHG the sequencer always runs
(60_exceptions.md R301); where it does not, LE.ABORT would be refused (R136). -/
def State.linkTimeout (s : State) : State := (if s.life = .running then s.abort else s).raise .linkTimeout

end Sys2Proof.Machine
end

