-- ==== Sys2Proof/Machine/Operands.lean ====
section
/-! DEFINITION. The operand forms: the frames the operations send (30_encoding.md R96 to R112), the descriptors (R106,
R107), the address arithmetic (20_memory.md R72, R74), the operand checks, and the chip-id table
(43_flash_program.md R231). -/

namespace Sys2Proof.Machine

/-! ### Frames -/

/-- `SIMPLE op payload`; a simple frame has `rcount = 1` (30_encoding.md R97). -/
def simpleFrame (op : Byte) (payload : List Byte) : Frame :=
  { kind := .simple, op := op, payload := payload, rcount := 1 }

/-- `EXT op payload r=rcount`. -/
def extFrame (op : Byte) (payload : List Byte) (rcount : Nat) : Frame :=
  { kind := .ext, op := op, payload := payload, rcount := rcount }

/-- `NULLFRAME(kind, rcount)` (41_command_protocol.md R181). -/
def nullFrame (cfg : Config) (kind : Kind) (rcount : Nat) : Frame :=
  { kind := kind, op := cfg.opNull, payload := [], rcount := rcount }

/-- The words of the null frame that retries a frame (41_command_protocol.md R190). -/
def nullWords (cfg : Config) (kind : Kind) (rcount : Nat) : List Word :=
  match kind with
  | .simple => [encSimple cfg.opNull []]
  | .ext => encExt cfg.opNull [] rcount

/-- `VARIANT_OF(kind)` (41_command_protocol.md R183). -/
def variantOf : Kind → Variant
  | .simple => .vSimple
  | .ext => .vExt

/-- The frame of `DI(bytes)` (42_access_layer.md R210, 30_encoding.md R109). -/
def diFrame (cfg : Config) (bytes : List Byte) : Frame :=
  simpleFrame (cfg.opDebugInstr ||| BitVec.ofNat 8 bytes.length) bytes

/-- The frame of `T.MOV_DPTR a`: the address high byte first (42_access_layer.md R214). -/
def diMovDptr (cfg : Config) (a : Half) : Frame := diFrame cfg [cfg.iMovDptr, hi a, lo a]
/-- The frame of `T.MOV_A v`. -/
def diMovA (cfg : Config) (v : Byte) : Frame := diFrame cfg [cfg.iMovA, v]
/-- The frame of `T.MOVX_ST`. -/
def diMovxSt (cfg : Config) : Frame := diFrame cfg [cfg.iMovxSt]
/-- The frame of `T.MOVX_LD`. -/
def diMovxLd (cfg : Config) : Frame := diFrame cfg [cfg.iMovxLd]
/-- The frame of `T.INC_DPTR`. -/
def diIncDptr (cfg : Config) : Frame := diFrame cfg [cfg.iIncDptr]

/-- The frame of the chip erase (43_flash_program.md R238). -/
def eraseFrame (cfg : Config) : Frame := simpleFrame cfg.opChipErase []
/-- The frame of the status poll (43_flash_program.md R239). -/
def statusFrame (cfg : Config) : Frame := simpleFrame cfg.opReadStatus []
/-- The frame of the enable-DMA write (43_flash_program.md R240, 30_encoding.md R110). -/
def enableDmaFrame (cfg : Config) : Frame := simpleFrame cfg.opWrConfig [cfg.configEnableDma]
/-- The frame of the chip-id read (30_encoding.md R111). -/
def chipIdFrame (cfg : Config) : Frame := extFrame cfg.opGetChipId [] 2

/-- The frame of a burst (30_encoding.md R108, 43_flash_program.md R249): `wcount = 1 + L`. -/
def burstFrame (cfg : Config) (data : List Byte) : Frame :=
  extFrame (cfg.opBurstWrite ||| BitVec.ofNat 8 (data.length / 256)) (BitVec.ofNat 8 data.length :: data) 1

/-! ### Descriptors (30_encoding.md R107) -/

/-- `DESC_A(L)`: interface to staging buffer. -/
def descA (cfg : Config) (len : Nat) : List Byte :=
  descBytes cfg.addrDbgdata cfg.addrBuf (BitVec.ofNat 16 len) cfg.ctrlA0 cfg.ctrlA1

/-- `DESC_B(L)`: staging buffer to flash controller. -/
def descB (cfg : Config) (len : Nat) : List Byte :=
  descBytes cfg.addrBuf cfg.addrFwdata (BitVec.ofNat 16 len) cfg.ctrlB0 cfg.ctrlB1

/-! ### Addresses -/

/-- `bank(a) = a >> 15` (20_memory.md R74). -/
def bankOf (a : Nat) : Nat := a / bankSize

/-- `off(a) = a & 0x7FFF` (20_memory.md R74). -/
def offOf (a : Nat) : Nat := a % bankSize

/-- `xaddr(a) = BANK_WINDOW_BASE + off(a)` (20_memory.md R74), a 16-bit address. DESIGN CHOICE (notes/assumptions/33.md): for
a base above 0x8000 a sum past 0xFFFF wraps. -/
def xaddrOf (cfg : Config) (a : Nat) : Half := cfg.bankWindowBase + BitVec.ofNat 16 (offOf a)

/-- `FADDRH = a[17:10]` (20_memory.md R72). -/
def faddrH (a : Nat) : Byte := BitVec.ofNat 8 (a / 1024)

/-- `FADDRL = a[9:2]` (20_memory.md R72). -/
def faddrL (a : Nat) : Byte := BitVec.ofNat 8 (a / 4)

/-- The addresses of the thirteen registers (10_state.md R41). -/
def registerAddresses (cfg : Config) : List Half :=
  [cfg.addrDbgdata, cfg.addrFctl, cfg.addrFaddrl, cfg.addrFaddrh, cfg.addrFwdata, cfg.addrClkconsta, cfg.addrClkconcmd,
    cfg.addrMemctr, cfg.addrDma1cfgl, cfg.addrDma1cfgh, cfg.addrDma0cfgl, cfg.addrDma0cfgh, cfg.addrDmaarm]

/-- An address in `[base, base + n)`. -/
def inRegion (base : Half) (n : Nat) (a : Nat) : Bool := decide (base.toNat ≤ a) && decide (a < base.toNat + n)

/-- Two regions `[a, a + m)` and `[b, b + n)` without a common address (20_memory.md R71). DESIGN CHOICE
(notes/assumptions/33.md): a region that runs past 0xFFFF is compared without wrapping, and is legal. -/
def disjointRegions (a : Half) (m : Nat) (b : Half) (n : Nat) : Bool :=
  decide (a.toNat + m ≤ b.toNat) || decide (b.toNat + n ≤ a.toNat)

/-! ### Checks -/

/-- The block sizes 20_memory.md R70 (a) to (d) allows. -/
def blockSizeLegal (cfg : Config) : Bool :=
  decide (0 < cfg.blockSize) && flashSize % cfg.blockSize == 0 && cfg.blockSize % 4 == 0 &&
    decide (cfg.blockSize ≤ cfg.burstMax) && decide (cfg.blockSize ≤ 65534)

/-- The layouts of target RAM that 20_memory.md R71 allows. -/
def ramLayoutLegal (cfg : Config) : Bool :=
  disjointRegions cfg.addrBuf cfg.blockSize cfg.addrDescA descLen &&
    disjointRegions cfg.addrBuf cfg.blockSize cfg.addrDescB descLen &&
    disjointRegions cfg.addrDescA descLen cfg.addrDescB descLen &&
    (registerAddresses cfg).all (fun r =>
      !inRegion cfg.addrBuf cfg.blockSize r.toNat && !inRegion cfg.addrDescA descLen r.toNat &&
        !inRegion cfg.addrDescB descLen r.toNat)

/-- The constraints on the other parameters that 00_scope.md R7 calls normative and no operation checks, and that OP_NULL
has no count bits, so that a simple null frame exists (41_command_protocol.md R181, 30_encoding.md R113). -/
def parametersLegal (cfg : Config) : Bool :=
  decide (1 ≤ cfg.nRstHold) && decide (1 ≤ cfg.txfDepth) && decide (1 ≤ cfg.rxfDepth) &&
    decide (10 * cfg.tTargetMin ≤ cfg.tTick) && countBits cfg.opNull == 0

/-- A configuration `TO.SESSION_START` does not refuse (43_flash_program.md R233). -/
def configLegal (cfg : Config) : Bool := blockSizeLegal cfg && ramLayoutLegal cfg

/-- A block length `FP.CONFIG_DMA` accepts (43_flash_program.md R242). -/
def lengthLegal (cfg : Config) (len : Nat) : Bool :=
  decide (1 ≤ len) && decide (len ≤ cfg.burstMax) && decide (len ≤ 65534) && len % 4 == 0

/-- A range inside the flash extent (20_memory.md R62): `a + n <= FLASH_SIZE`. DEDUCED (notes/assumptions/19.md): the empty
range at `a = FLASH_SIZE` is one. -/
def flashRange (a n : Nat) : Bool := decide (a + n ≤ flashSize)

/-- A range inside XDATA (42_access_layer.md R215): `a + n <= 0x10000`. -/
def xdataRange (a : Half) (n : Nat) : Bool := decide (a.toNat + n ≤ 65536)

/-- The operands `FP.BURST_LOAD` accepts (R246, 20_memory.md R72): a multiple of 4, a range inside the flash, and a burst
the encoder does not refuse (30_encoding.md R113). -/
def burstLegal (cfg : Config) (a : Nat) (bs : List Byte) : Bool :=
  a % 4 == 0 && flashRange a bs.length && decide (1 ≤ bs.length) && decide (bs.length ≤ cfg.burstMax)

/-! ### Chip identity -/

/-- `ID.LOOKUP` (43_flash_program.md R231): none is "unidentified". -/
def chipLookup (b : Byte) : Option ChipName :=
  if b = 0xA5#8 then some .cc2530
  else if b = 0xB5#8 then some .cc2531
  else if b = 0x95#8 then some .cc2533
  else if b = 0x43#8 then some .cc2543
  else if b = 0x44#8 then some .cc2544
  else if b = 0x45#8 then some .cc2545
  else none

/-! ### Results of sub-operations -/

/-- The bytes the last operation returned. -/
def State.resultBytes (s : State) : List Byte :=
  match s.result with
  | .bytes bs => bs
  | _ => []

/-- The first byte the last operation returned; any value where it returned none, which no operation that asks for it
meets (42_access_layer.md R210). -/
def State.resultByte (s : State) : Byte :=
  match s.result with
  | .bytes (b :: _) => b
  | _ => Config.freeByte s.clock 2

/-- The next answer of a source; a source with no more answers is exhausted (10_state.md R47). -/
def nextFill : List Fill → Fill
  | [] => .bytes []
  | f :: _ => f

/-- The next answer of a sink; a sink with no more listed answers accepts (10_state.md R47, notes/assumptions/13.md). -/
def nextAck : List Ack → Ack
  | [] => .accepted
  | a :: _ => a

end Sys2Proof.Machine
end

