-- ==== Sys2Proof/Machine/Flags.lean ====
section
/-! DEFINITION. The flags (10_state.md R50) and what the host can read (R31, 44_flash_read_and_transfer.md R281). The
block computes no arithmetic flag (R50). -/

namespace Sys2Proof.Machine

/-- `full(TXF)` (10_state.md R33). -/
def State.txfFull (s : State) : Bool := decide (s.cfg.txfDepth ≤ s.txf.length)

/-- `full(RXF)` (10_state.md R33). -/
def State.rxfFull (s : State) : Bool := decide (s.cfg.rxfDepth ≤ s.rxf.length)

/-- `LE_BUSY` (10_state.md R31). -/
def State.leBusy (s : State) : Bool :=
  s.life == .running &&
    (match s.variant with
    | .vAttach => !s.leDone
    | _ => s.phase != .cIdle || !s.txf.isEmpty)

/-- `NR` of a sample: 1 where the level is not `READY_LEVEL` (40_link_engine.md R161). -/
def notReady (cfg : Config) (level : Bool) : Bool := level != cfg.readyLevel

/-- The erase-busy flag of a status byte (10_state.md R42, 43_flash_program.md R239). -/
def eraseBusy (cfg : Config) (status : Byte) : Bool := (status &&& cfg.statusEraseBusy) != 0#8

/-- The busy bit of the flash controller (10_state.md R41, 43_flash_program.md R253). -/
def fctlBusySet (cfg : Config) (value : Byte) : Bool := (value &&& cfg.fctlBusy) != 0#8

/-- The code of `LE_VARIANT` (10_state.md R27). -/
def variantCode : Variant → Nat
  | .vNone => 0
  | .vAttach => 1
  | .vSimple => 2
  | .vExt => 3

/-- The code of `FP_STATE` (10_state.md R38). -/
def FpState.code : FpState → Nat
  | .idle => 0
  | .erasing => 1
  | .configDma => 2
  | .burst => 3
  | .programming => 4
  | .done => 5
  | .failed => 6

/-- The code of `TO_MODE` (10_state.md R40). -/
def ToMode.code : ToMode → BitVec 2
  | .none => 0#2
  | .read => 1#2
  | .write => 2#2

/-- The code of `TXSEG` (10_state.md R29). -/
def Seg.code : Seg → BitVec 2
  | .segOp => 0#2
  | .segCnt => 1#2
  | .segData => 2#2

/-- The fields of the Link Engine a host can read (10_state.md R31): `LE_LIFE`, `LE_VARIANT`, `LE_DONE`, `LE_BUSY`,
`empty(RXF)`, `full(TXF)`. -/
def State.readable (s : State) : Life × Variant × Bool × Bool × Bool × Bool :=
  (s.life, s.variant, s.leDone, s.leBusy, s.rxf.isEmpty, s.txfFull)

end Sys2Proof.Machine
end

