-- ==== Sys2Proof/Machine/Access.lean ====
section
/-! DEFINITION. The Access Layer (file 42, and 44_flash_read_and_transfer.md R271): each operation is a sequence of
emulated target instructions, each one exchange (`DI`, R210). -/

namespace Sys2Proof.Machine

/-- `DI(bytes)` (R210). -/
def di (f : Frame) : Task := .op (.xchg f)

/-- `AL.WRITE a, v` (R212). -/
def execAlWrite (a : Half) (v : Byte) (s : State) : Host.Outcome State Fault Refusal :=
  issue s.held s (s.push [di (diMovDptr s.cfg a), di (diMovA s.cfg v), di (diMovxSt s.cfg), .retUnit])

/-- `AL.READ a` (R213): the result is the response byte of the load (R217). -/
def execAlRead (a : Half) (s : State) : Host.Outcome State Fault Refusal :=
  issue s.held s (s.push [di (diMovDptr s.cfg a), di (diMovxLd s.cfg)])

/-- The three instructions that write one byte of a block; the pointer is incremented after every byte, the last
included (R215, R216). -/
def writeByteTasks (cfg : Config) (b : Byte) : List Task := [di (diMovA cfg b), di (diMovxSt cfg), di (diIncDptr cfg)]

/-- `AL.WRITE_BLOCK a, bytes` (R215): refused where the range runs past 0xFFFF. -/
def execAlWriteBlock (a : Half) (bs : List Byte) (s : State) : Host.Outcome State Fault Refusal :=
  issue (s.held && xdataRange a bs.length) s
    (s.push (di (diMovDptr s.cfg a) :: (bs.flatMap (writeByteTasks s.cfg) ++ [.retUnit])))

/-- `AL.READ_BLOCK_BANKED a, n` (44_flash_read_and_transfer.md R271). -/
def execAlReadBlockBanked (a n : Nat) (s : State) : Host.Outcome State Fault Refusal :=
  issue (s.held && flashRange a n) s (s.push [.readSeg a n []])

/-- One pass of the outer loop of R271, with `rest` what follows: the bank is selected (R273), the pointer loaded, and
the bytes left in this bank are read; when none are to go the bytes read are the result. -/
def stepReadSeg (a n : Nat) (out : List Byte) (rest : List Task) (s : State) : State :=
  if n = 0 then { s with tasks := rest, result := .bytes out }
  else
    { s with
      tasks := .op (.write s.cfg.addrMemctr (BitVec.ofNat 8 (bankOf a))) ::
        di (diMovDptr s.cfg (xaddrOf s.cfg a)) :: .readByte (min n (bankSize - offOf a)) a n out :: rest }

/-- One pass of the inner loop of R271: the load. -/
def stepReadByte (m a n : Nat) (out : List Byte) (rest : List Task) (s : State) : State :=
  if m = 0 then { s with tasks := .readSeg a n out :: rest }
  else { s with tasks := di (diMovxLd s.cfg) :: .readGot m a n out :: rest }

/-- The byte loaded is appended and the pointer incremented (R271). -/
def stepReadGot (m a n : Nat) (out : List Byte) (rest : List Task) (s : State) : State :=
  { s with tasks := di (diIncDptr s.cfg) :: .readByte (m - 1) (a + 1) (n - 1) (out ++ [s.resultByte]) :: rest }

end Sys2Proof.Machine
end

