-- ==== Sys2Proof/Machine/Attach.lean ====
section
/-! DEFINITION. The phase rules of the attach program (40_link_engine.md R132, R140 to R149). Each is one tick (R130). -/

namespace Sys2Proof.Machine

/-- `P_STOPPED` (R132): the sequencer has no step. -/
def execPStopped (s : State) : Host.Outcome State Fault Refusal := .next s

/-- `AT_ASSERT` (R141): reset low, strobe low, data line an input, in one step. -/
def execAtAssert (s : State) : Host.Outcome State Fault Refusal :=
  .next { s.drive (setLine (setLine s.pinsOut 1 false) 2 false) (setLine s.pinsOe 0 false) with
    holdcnt := Reg.of s.cfg.nRstHold, falls := Reg.of 0#2, phase := .atHold }

/-- `AT_HOLD` (R142). -/
def execAtHold (s : State) : Host.Outcome State Fault Refusal :=
  .next { s with
    holdcnt := Reg.of (s.rdHoldcnt - 1)
    phase := if s.rdHoldcnt - 1 = 0 then .atHi else s.phase }

/-- `AT_HI` (R143). -/
def execAtHi (s : State) : Host.Outcome State Fault Refusal := .next { s.setDc true with phase := .atHihold }

/-- `AT_HIHOLD` (R144). -/
def execAtHihold (s : State) : Host.Outcome State Fault Refusal := .next { s with phase := .atLo }

/-- `AT_LO` (R145): a falling strobe edge with reset low. -/
def execAtLo (s : State) : Host.Outcome State Fault Refusal :=
  .next { s.setDc false with falls := Reg.of (s.rdFalls + 1#2), phase := .atLohold }

/-- `AT_LOHOLD` (R146). -/
def execAtLohold (s : State) : Host.Outcome State Fault Refusal :=
  .next { s with phase := if s.rdFalls.toNat < nAttachFalls then .atHi else .atRelease }

/-- `AT_RELEASE` (R147). -/
def execAtRelease (s : State) : Host.Outcome State Fault Refusal :=
  .next { s.drive (setLine s.pinsOut 2 true) s.pinsOe with holdcnt := Reg.of s.cfg.nRstHold, phase := .atSettle }

/-- `AT_SETTLE` (R148). -/
def execAtSettle (s : State) : Host.Outcome State Fault Refusal :=
  .next { s with
    holdcnt := Reg.of (s.rdHoldcnt - 1)
    leDone := if s.rdHoldcnt - 1 = 0 then true else s.leDone
    phase := if s.rdHoldcnt - 1 = 0 then .atDone else s.phase }

/-- `AT_DONE` (R149): nothing changes. -/
def execAtDone (s : State) : Host.Outcome State Fault Refusal := .next s

end Sys2Proof.Machine
end

