-- ==== Sys2Proof/Machine/FrameWords.lean ====
section
/-! DEFINITION. The words of `TXF` as the sequencer takes them and the word of `RXF` as the host context takes it
(30_encoding.md R96 to R104; 40_link_engine.md R150 to R152, R158; 41_command_protocol.md R182, R185). The word has
been popped when these rules run: the pop is the fetch (Machine/Step.lean). -/

namespace Sys2Proof.Machine

/-- What `C_IDLE` under V_SIMPLE does with the word it popped (R150). -/
def State.takeSimple (s : State) (w : Word) : State :=
  if wordByte w 0 = s.cfg.opNull then
    { s with osr := Reg.of w, opc := Reg.of s.cfg.opNull, wcnt := Reg.of 0#16, rcnt := Reg.of 1#16, phase := .cDirin }
  else
    { s with
      osr := Reg.of w, opc := Reg.of (wordByte w 0), wcnt := Reg.of 0#16, rcnt := Reg.of 1#16
      txseg := Reg.of .segOp, bitcnt := Reg.of 6#4, phase := .cDirout }

/-- What `C_IDLE` under V_EXT does with the prefix it popped (R151). -/
def State.takePrefix (s : State) (wcount rcount : Half) : State :=
  { s with wcnt := Reg.of wcount, rcnt := Reg.of rcount, phase := .cFetch0 }

/-- What `C_FETCH0` does with the word it popped (R152). -/
def State.takeStream0 (s : State) (w : Word) : State :=
  if wordByte w 0 = s.cfg.opNull then { s with osr := Reg.of w, opc := Reg.of s.cfg.opNull, phase := .cDirin }
  else
    { s with
      osr := Reg.of w, opc := Reg.of (wordByte w 0)
      txseg := Reg.of .segOp, bitcnt := Reg.of 8#4, phase := .cDirout }

/-- What `C_REFILL` does with the word it popped (R158). -/
def State.takeStream (s : State) (w : Word) : State :=
  { s with osr := Reg.of w, osrb := Reg.of 4#3, phase := .cTxset }

/-- SIMPLE_WORD (30_encoding.md R96, 40_link_engine.md R150). -/
def execSimpleWord (op6 : BitVec 6) (cnt : BitVec 2) (p0 p1 p2 : Byte) (s : State) :
    Host.Outcome State Fault Refusal :=
  .next (s.takeSimple (word4 (op6 ++ cnt) p0 p1 p2))

/-- NULL (30_encoding.md R99): no write phase, one response byte; bits 23:0 are ignored. -/
def execNull (ignored : BitVec 24) (s : State) : Host.Outcome State Fault Refusal :=
  .next (s.takeSimple (s.cfg.opNull ++ ignored))

/-- EXT_PREFIX (30_encoding.md R100, 40_link_engine.md R151). -/
def execExtPrefix (wcount rcount : Half) (s : State) : Host.Outcome State Fault Refusal :=
  .next (s.takePrefix wcount rcount)

/-- EXT_STREAM_WORD (30_encoding.md R101): a later word in C_REFILL (R158), otherwise the first word (R152). -/
def execExtStreamWord (s0 s1 s2 s3 : Byte) (s : State) : Host.Outcome State Fault Refusal :=
  .next (if s.phase = .cRefill then s.takeStream (word4 s0 s1 s2 s3) else s.takeStream0 (word4 s0 s1 s2 s3))

/-- EXT_NULL (30_encoding.md R102): no write phase. -/
def execExtNull (ignored : BitVec 24) (s : State) : Host.Outcome State Fault Refusal :=
  .next (s.takeStream0 (s.cfg.opNull ++ ignored))

/-- RESP_WORD (30_encoding.md R103, 41_command_protocol.md R182, R185): the host context keeps the decoded word. -/
def execRespWord (nr : Bool) (data : Byte) (s : State) : Host.Outcome State Fault Refusal :=
  .next { s with ws := s.ws ++ [{ nr := nr, data := data }] }

end Sys2Proof.Machine
end

