-- ==== Sys2Proof/Machine/Command.lean ====
section
/-! DEFINITION. The phase rules of the command program (40_link_engine.md R150 to R165). Each is one tick (R130) unless
it holds; the only holds are the four FIFO holds of 10_state.md R33 (R169). -/

namespace Sys2Proof.Machine

/-- `C_IDLE` under V_SIMPLE (R150): holds while TXF is empty. -/
def execCIdleSimple (s : State) : Host.Outcome State Fault Refusal :=
  .next (match s.txf with
    | [] => s
    | w :: rest => { s with txf := rest }.takeSimple w)

/-- `C_IDLE` under V_EXT (R151): holds while TXF is empty. -/
def execCIdleExt (s : State) : Host.Outcome State Fault Refusal :=
  .next (match s.txf with
    | [] => s
    | w :: rest => { s with txf := rest }.takePrefix (w.extractLsb' 16 16) (w.extractLsb' 0 16))

/-- `C_FETCH0` (R152): holds while TXF is empty. -/
def execCFetch0 (s : State) : Host.Outcome State Fault Refusal :=
  .next (match s.txf with
    | [] => s
    | w :: rest => { s with txf := rest }.takeStream0 w)

/-- `C_DIROUT` (R153). -/
def execCDirout (s : State) : Host.Outcome State Fault Refusal := .next { s.setDdOe true with phase := .cTxset }

/-- `C_TXSET` (R154): the next bit is put on the data line; a count bit is captured as well. -/
def execCTxset (s : State) : Host.Outcome State Fault Refusal :=
  .next { s.setDd (s.rdOsr.getLsbD 31) with
    wcnt := if s.rdTxseg = .segCnt then
        Reg.of ((s.rdWcnt <<< 1) ||| (BitVec.ofBool (s.rdOsr.getLsbD 31)).zeroExtend 16)
      else s.wcnt
    osr := Reg.of (s.rdOsr <<< 1)
    phase := .cTxhi }

/-- `C_TXHI` (R155). -/
def execCTxhi (s : State) : Host.Outcome State Fault Refusal := .next { s.setDc true with phase := .cTxhold }

/-- `C_TXHOLD` (R156). -/
def execCTxhold (s : State) : Host.Outcome State Fault Refusal := .next { s with phase := .cTxlo }

/-- `NEXT` of `C_TXLO` (R157), given the write count and the count of unsent bytes of OSR it tests. -/
def State.nextByte (s : State) (wcnt : Half) (osrb : BitVec 3) : State :=
  if wcnt = 0#16 then { s with phase := .cDirin }
  else
    { s with
      txseg := Reg.of .segData, bitcnt := Reg.of 8#4
      phase := if osrb = 0#3 then .cRefill else .cTxset }

/-- `C_TXLO` (R157): the falling edge, then the end of a segment or a byte. -/
def execCTxlo (s : State) : Host.Outcome State Fault Refusal :=
  .next (
    let b := s.rdBitcnt - 1#4
    let t := { s.setDc false with bitcnt := Reg.of b }
    if b ≠ 0#4 then { t with phase := .cTxset }
    else
      match s.rdTxseg with
      | .segOp =>
        if s.variant = .vSimple then { t with txseg := Reg.of .segCnt, bitcnt := Reg.of 2#4, phase := .cTxset }
        else { t with osrb := Reg.of 3#3 }.nextByte s.rdWcnt 3#3
      | .segCnt => { t with osrb := Reg.of 3#3 }.nextByte s.rdWcnt 3#3
      | .segData =>
        { t with osrb := Reg.of (s.rdOsrb - 1#3), wcnt := Reg.of (s.rdWcnt - 1#16) }.nextByte
          (s.rdWcnt - 1#16) (s.rdOsrb - 1#3))

/-- `C_REFILL` (R158): holds while TXF is empty. -/
def execCRefill (s : State) : Host.Outcome State Fault Refusal :=
  .next (match s.txf with
    | [] => s
    | w :: rest => { s with txf := rest }.takeStream w)

/-- `C_DIRIN` (R160). -/
def execCDirin (s : State) : Host.Outcome State Fault Refusal :=
  .next { s.setDdOe false with phase := if s.rdRcnt = 0#16 then .cIdle else .cSample }

/-- `C_SAMPLE` (R161): the not-ready level is sampled; the step never waits. -/
def execCSample (s : State) : Host.Outcome State Fault Refusal :=
  .next { s with
    nr := Reg.of (notReady s.cfg (s.ddIn s.readySignal))
    isr := Reg.of 0#8
    bitcnt := Reg.of 8#4
    phase := .cRxhi
    dd := s.dd.tail }

/-- `C_RXHI` (R162). -/
def execCRxhi (s : State) : Host.Outcome State Fault Refusal := .next { s.setDc true with phase := .cRxhold }

/-- `C_RXHOLD` (R163). -/
def execCRxhold (s : State) : Host.Outcome State Fault Refusal := .next { s with phase := .cRxlo }

/-- The target after it has presented a response bit (20_memory.md R79). -/
def State.presented (s : State) : Target :=
  if s.answering && s.presenting then { s.target with resp := s.target.resp.tail } else s.target

/-- `C_RXLO` (R164): the sample takes the level before the fall; the first bit received ends in bit 7. -/
def execCRxlo (s : State) : Host.Outcome State Fault Refusal :=
  .next { { s with target := s.presented }.setDc false with
    isr := Reg.of ((s.rdIsr <<< 1) ||| (BitVec.ofBool (s.ddIn s.responseBit)).zeroExtend 8)
    bitcnt := Reg.of (s.rdBitcnt - 1#4)
    phase := if s.rdBitcnt - 1#4 ≠ 0#4 then .cRxhi else .cPush
    dd := s.dd.tail }

/-- `C_PUSH` (R165): holds while RXF is full. -/
def execCPush (s : State) : Host.Outcome State Fault Refusal :=
  .next (
    if s.rxfFull then s
    else
      { s with
        rxf := s.rxf ++ [respBits s.rdNr s.rdIsr]
        rcnt := Reg.of (s.rdRcnt - 1#16)
        phase := if s.rdRcnt - 1#16 ≠ 0#16 then .cSample else .cIdle })

end Sys2Proof.Machine
end

