-- ==== Sys2Proof/Machine/Exchange.lean ====
section
/-! DEFINITION. The Command Protocol unit (file 41): `CP.XCHG`, and the points at which `SEND` and `RECV` wait, test and
return. -/

namespace Sys2Proof.Machine

/-- `CP.XCHG f` (R186): the frame is encoded (which may refuse), the variant switched (R187), `TMO` armed once for the
call (R189); then `SEND` and `RECV`. -/
def execCpXchg (f : Frame) (s : State) : Host.Outcome State Fault Refusal :=
  issue (s.held && f.encodable s.cfg) s
    ({ ((s.switch (variantOf f.kind)).armTimer .tmo) with ws := [] }.push [.send ((f.words s.cfg).getD []), .await f])

/-- One turn of `SEND` (R184), with `rest` what follows it: a word is pushed when TXF is not full; while it is full the
host holds until `TMO` expires. -/
def stepSend (words : List Word) (rest : List Task) (s : State) : State :=
  match words with
  | [] => { s with tasks := rest }
  | w :: more =>
    if s.txfFull then
      if s.expired .tmo then (s.askTimer .tmo).linkTimeout else s.askTimer .tmo
    else { s with txf := s.txf ++ [w], tasks := if more.isEmpty then rest else .send more :: rest }

/-- `Ok([DEC_RESP(w).data for w in ws_in])` (R186). -/
def respData (ws : List Resp) : List Byte := ws.map Resp.data

/-- The `NR` of the first word of a response, the only one that is examined (R190, 30_encoding.md R104). -/
def firstNr (ws : List Resp) : Bool :=
  match ws with
  | r :: _ => r.nr
  | [] => false

/-- One turn of the wait of `CP.XCHG` (R185, R186, R190, R191) when no response word is to be popped, with `rest` what
follows the exchange. A frame without response is complete when `LE_BUSY = 0`; a whole response whose first word is
ready is returned, and one that is not is discarded and a null frame sent; every other turn holds, and `TMO` ends it. -/
def stepAwait (f : Frame) (rest : List Task) (s : State) : State :=
  if f.rcount = 0 then
    if !s.leBusy then { s with tasks := rest, result := .bytes [] }
    else if s.expired .tmo then (s.askTimer .tmo).linkTimeout
    else s.askTimer .tmo
  else if s.ws.length < f.rcount then
    if s.expired .tmo then (s.askTimer .tmo).linkTimeout else s.askTimer .tmo
  else if !firstNr s.ws then { s with tasks := rest, result := .bytes (respData s.ws), ws := [] }
  else if s.expired .tmo then (s.askTimer .tmo).linkTimeout
  else { s.askTimer .tmo with ws := [], tasks := .send (nullWords s.cfg f.kind f.rcount) :: .await f :: rest }

end Sys2Proof.Machine
end

