-- ==== Sys2Proof/Machine/FlashProgram.lean ====
section
/-! DEFINITION. The Flash Program Pipeline (43_flash_program.md R236 to R260). Every operation of it requires an identified
chip (R234), and the five of R237 their own state of the pipeline (R260). -/

namespace Sys2Proof.Machine

/-- The requirement of R234: the owner, and an identified chip. -/
def State.ready (s : State) : Bool := s.held && s.chipState == .identified

/-- `FP.ERASE` (R238). -/
def execFpErase (s : State) : Host.Outcome State Fault Refusal :=
  issue (s.ready && s.fpState == .idle) s
    ({ s with fpState := .erasing }.push [.op (.xchg (eraseFrame s.cfg)), .arm .tmoErase, .erasePoll])

/-- No operation of the pipeline is legal in FP_FAILED (R260, 95_test_vectors.md 2.9). -/
def State.notFailed (s : State) : Bool := s.fpState != .failed

/-- `FP.ENABLE_DMA` (R240): legal in every other state of the pipeline (notes/assumptions/14.md). -/
def execFpEnableDma (s : State) : Host.Outcome State Fault Refusal :=
  issue (s.ready && s.notFailed) s (s.push [.op (.xchg (enableDmaFrame s.cfg)), .dmaEnabled])

/-- The steps of `FP.CONFIG_DMA` after the enable-DMA write (R243 to R245). -/
def configTasks (cfg : Config) (len : Nat) : List Task :=
  [.op (.writeBlock cfg.addrDescA (descA cfg len)), .op (.writeBlock cfg.addrDescB (descB cfg len)),
    .op (.write cfg.addrDma0cfgh (hi cfg.addrDescA)), .op (.write cfg.addrDma0cfgl (lo cfg.addrDescA)),
    .op (.write cfg.addrDma1cfgh (hi cfg.addrDescB)), .op (.write cfg.addrDma1cfgl (lo cfg.addrDescB)),
    .configDone len]

/-- `FP.CONFIG_DMA L` (R241, R242). -/
def execFpConfigDma (len : Nat) (s : State) : Host.Outcome State Fault Refusal :=
  issue (s.ready && s.fpState == .configDma && lengthLegal s.cfg len) s
    (s.push (if s.dmaEnabled then configTasks s.cfg len else .op .enableDma :: configTasks s.cfg len))

/-- The steps of `FP.BURST_LOAD` (R247 to R249): the flash address, high register first; channel A armed; the burst. -/
def burstTasks (cfg : Config) (a : Nat) (bs : List Byte) : List Task :=
  [.op (.write cfg.addrFaddrh (faddrH a)), .op (.write cfg.addrFaddrl (faddrL a)), .op (.write cfg.addrDmaarm cfg.armA),
    .op (.xchg (burstFrame cfg bs)), .burstDone]

/-- `FP.BURST_LOAD a, data` (R246). -/
def execFpBurstLoad (a : Nat) (bs : List Byte) (s : State) : Host.Outcome State Fault Refusal :=
  issue (s.ready && s.fpState == .burst && bs.length == s.fpLen.toNat && burstLegal s.cfg a bs) s
    (s.push (burstTasks s.cfg a bs))

/-- `FP.PROGRAM` (R250 to R253): channel B armed, the write triggered, the busy bit polled. -/
def execFpProgram (s : State) : Host.Outcome State Fault Refusal :=
  issue (s.ready && s.fpState == .programming) s
    (s.push [.op (.write s.cfg.addrDmaarm s.cfg.armB), .op (.write s.cfg.addrFctl s.cfg.fctlWriteValue),
      .arm .tmoProg, .progPoll])

/-- `FP.CLOCK_INIT` (R236). With the parameter CLOCK_INIT false the two registers are never accessed: it returns at once
(notes/assumptions/14.md). -/
def execFpClockInit (s : State) : Host.Outcome State Fault Refusal :=
  issue (s.ready && s.notFailed) s
    (if s.cfg.clockInit then
      s.push [.op (.write s.cfg.addrClkconcmd s.cfg.clkCmdValue), .arm .tmoLink2, .clockPoll]
    else s.ret .unit)

/-- `FP.WRITE_BLOCK a, data` (R255): its operands are checked before its first step (notes/assumptions/15.md). -/
def execFpWriteBlock (a : Nat) (bs : List Byte) (s : State) : Host.Outcome State Fault Refusal :=
  issue (s.ready && s.fpState == .configDma && lengthLegal s.cfg bs.length && burstLegal s.cfg a bs) s
    (s.push [.op (.configDma bs.length), .op (.burstLoad a bs), .op .program])

/-! ### The points at which the pipeline waits, tests and returns -/

/-- `DMA_ENABLED <- 1` (R240). -/
def stepDmaEnabled (rest : List Task) (s : State) : State :=
  { s with tasks := rest, dmaEnabled := true, result := .unit }

/-- One status exchange of the erase poll (R239). -/
def stepErasePoll (rest : List Task) (s : State) : State :=
  { s with tasks := .op (.xchg (statusFrame s.cfg)) :: .eraseTest :: rest }

/-- The tests of the erase poll, in their order (R239, 60_exceptions.md R298): a clear flag ends it, an expired ceiling
fails, otherwise it sleeps and polls again. -/
def stepEraseTest (rest : List Task) (s : State) : State :=
  if !eraseBusy s.cfg s.resultByte then { s with tasks := rest, fpState := .configDma, result := .unit }
  else if s.expired .tmoErase then (s.askTimer .tmoErase).raise .eraseTimeout
  else { s.askTimer .tmoErase with tasks := .sleep s.cfg.pollSleep :: .erasePoll :: rest }

/-- `FP_LEN <- L ; FP_STATE <- FP_BURST` (R242). -/
def stepConfigDone (len : Nat) (rest : List Task) (s : State) : State :=
  { s with tasks := rest, fpLen := BitVec.ofNat 16 len, fpState := .burst, result := .unit }

/-- `FP_STATE <- FP_PROGRAMMING` (R246). -/
def stepBurstDone (rest : List Task) (s : State) : State :=
  { s with tasks := rest, fpState := .programming, result := .unit }

/-- One read of the flash controller (R253). -/
def stepProgPoll (rest : List Task) (s : State) : State :=
  { s with tasks := .op (.read s.cfg.addrFctl) :: .progTest :: rest }

/-- The tests of the program poll, in their order (R253, 60_exceptions.md R298); it does not sleep. -/
def stepProgTest (rest : List Task) (s : State) : State :=
  if !fctlBusySet s.cfg s.resultByte then { s with tasks := rest, fpState := .configDma, result := .unit }
  else if s.expired .tmoProg then (s.askTimer .tmoProg).raise .programTimeout
  else { s.askTimer .tmoProg with tasks := .progPoll :: rest }

/-- One read of the clock status (R236). -/
def stepClockPoll (rest : List Task) (s : State) : State :=
  { s with tasks := .op (.read s.cfg.addrClkconsta) :: .clockTest :: rest }

/-- The tests of the clock wait, in their order (R236); the failure is raised between two exchanges and needs no abort
(60_exceptions.md R291). -/
def stepClockTest (rest : List Task) (s : State) : State :=
  if s.resultByte = s.cfg.clkStaValue then { s with tasks := rest, result := .unit }
  else if s.expired .tmoLink2 then (s.askTimer .tmoLink2).raise .linkTimeout
  else { s.askTimer .tmoLink2 with tasks := .clockPoll :: rest }

end Sys2Proof.Machine
end

