-- ==== Sys2Proof/Machine/Identity.lean ====
section
/-! DEFINITION. Chip identity (43_flash_program.md R231, R232). -/

namespace Sys2Proof.Machine

/-- `ID.LOOKUP b` (R231): a pure total function; it writes no state of the block but its result. -/
def execIdLookup (b : Byte) (s : State) : Host.Outcome State Fault Refusal :=
  issue s.held s (s.ret (.name (chipLookup b)))

/-- `ID.READ` (R232). -/
def execIdRead (s : State) : Host.Outcome State Fault Refusal :=
  issue s.held s (s.push [.op (.xchg (chipIdFrame s.cfg)), .idRet])

/-- The return of `ID.READ`: the first byte is the id, the second the revision. -/
def stepIdRet (rest : List Task) (s : State) : State :=
  { s with tasks := rest, result := .ident (s.resultBytes.getD 0 0#8) (s.resultBytes.getD 1 0#8) }

end Sys2Proof.Machine
end

