-- ==== Sys2Proof/Machine/Lifecycle.lean ====
section
/-! DEFINITION. The lifecycle operations of the Link Engine, HOP 0x01 to 0x07 (40_link_engine.md R133 to R139). Each
requires `OWNER = HELD` (10_state.md R35) and takes effect between two ticks (R130). -/

namespace Sys2Proof.Machine

/-- `LE.LOAD v` (R133): refused when something is loaded, and for `V_NONE`. -/
def execLeLoad (v : Variant) (s : State) : Host.Outcome State Fault Refusal :=
  issue (s.held && s.life == .unloaded && v != .vNone) s ((s.load v).ret .unit)

/-- `LE.START` (R134). -/
def execLeStart (s : State) : Host.Outcome State Fault Refusal :=
  issue (s.held && s.life == .loaded) s (s.start.ret .unit)

/-- `LE.STOP` (R135). -/
def execLeStop (s : State) : Host.Outcome State Fault Refusal :=
  issue (s.held && s.life == .running) s (s.stop.ret .unit)

/-- `LE.ABORT` (R136). -/
def execLeAbort (s : State) : Host.Outcome State Fault Refusal :=
  issue (s.held && s.life == .running) s (s.abort.ret .unit)

/-- `LE.DEINIT` (R137). -/
def execLeDeinit (s : State) : Host.Outcome State Fault Refusal :=
  issue (s.held && s.life == .loaded) s (s.deinit.ret .unit)

/-- `LE.SWITCH v` (R138). -/
def execLeSwitch (v : Variant) (s : State) : Host.Outcome State Fault Refusal :=
  issue (s.held && v != .vNone) s ((s.switch v).ret .unit)

/-- `LE.ATTACH` (R139): the attach program is loaded and started, and the operation waits for `LE_DONE`. -/
def execLeAttach (s : State) : Host.Outcome State Fault Refusal :=
  issue s.held s (((s.teardown.load .vAttach).start).push [.waitDone])

end Sys2Proof.Machine
end

