-- ==== Sys2Proof/Machine/Orchestrator.lean ====
section
/-! DEFINITION. The Flash Read Pipeline (44_flash_read_and_transfer.md R270), session start (43_flash_program.md R233), the
write and read passes (44_flash_read_and_transfer.md R274 to R283), session end and recovery (60_exceptions.md R305,
R306). -/

namespace Sys2Proof.Machine

/-- `FR.READ a, n` (R270): adds the identity check to `AL.READ_BLOCK_BANKED`. It tests neither ERR nor FP_STATE
(notes/assumptions/31.md). -/
def execFrRead (a n : Nat) (s : State) : Host.Outcome State Fault Refusal :=
  issue (s.ready && flashRange a n) s (s.push [.op (.readBanked a n)])

/-! ### Session start -/

/-- `TO_NBLK = FLASH_SIZE / BLOCK_SIZE` (R274). -/
def blockCount (cfg : Config) : BitVec 19 := BitVec.ofNat 19 (flashSize / cfg.blockSize)

/-- `TO.SESSION_START` (43_flash_program.md R233): the fields it sets, then the attach, the id read and the rest. After a
failure it is accepted once the block is free, by TO.RESTART or TO.SESSION_END (DEDUCED, notes/assumptions/29.md). -/
def execToSessionStart (s : State) : Host.Outcome State Fault Refusal :=
  issue (s.owner == .free && configLegal s.cfg) s
    ({ s with
        owner := .held, err := 0#3, eoi := false, chipState := .unset, dmaEnabled := false, fpState := .idle
        toMode := .none, toBlk := 0#19, toOff := 0#19, toNblk := blockCount s.cfg }.push
      [.op .attach, .op .idRead, .identify])

/-- The two bytes `ID.READ` returned. -/
def State.identBytes (s : State) : Byte × Byte :=
  match s.result with
  | .ident i r => (i, r)
  | _ => (Config.freeByte s.clock 2, Config.freeByte s.clock 5)

/-- The rest of `TO.SESSION_START` (43_flash_program.md R233): the identity is recorded; an unknown id fails
(60_exceptions.md R292); the clock switch follows where CLOCK_INIT says so. DESIGN CHOICE (notes/assumptions/10.md): with an
unknown id CHIP_NAME (10_state.md R37), which R233 does not write there, keeps what it held. -/
def stepIdentify (rest : List Task) (s : State) : State :=
  match chipLookup s.identBytes.1 with
  | none =>
    { s with chipId := s.identBytes.1, chipRev := s.identBytes.2, chipState := .unidentified }.raise .chipUnidentified
  | some n =>
    { s with
      chipId := s.identBytes.1, chipRev := s.identBytes.2, chipName := some n, chipState := .identified
      tasks := if s.cfg.clockInit then .op .clockInit :: rest else rest
      result := .unit }

/-! ### The write pass -/

/-- What every pass requires (R276, R280). -/
def State.passReady (s : State) : Bool := s.ready && s.err == 0#3 && s.toMode == .none

/-- `TO.WRITE_ALL src` (R276). -/
def execToWriteAll (src : List Fill) (s : State) : Host.Outcome State Fault Refusal :=
  issue (s.passReady && s.fpState == .idle) s
    ({ s with toMode := .write, toBlk := 0#19, toOff := 0#19, eoi := false }.push [.op .erase, .writeLoop src])

/-- One block of the source: at most `BLOCK_SIZE` bytes are taken (10_state.md R47, notes/assumptions/13.md). -/
def takenBytes (cfg : Config) (bs : List Byte) : List Byte := bs.take cfg.blockSize

/-- `BUF` for the bytes a fill gave: the rest padded with `FILL` (R276). -/
def paddedBlock (cfg : Config) (got : List Byte) : List Byte :=
  got ++ List.replicate (cfg.blockSize - got.length) fillByte

/-- One turn of the write loop (R276 to R278): no further fill after `TO_NBLK` blocks or the end of input; a short fill
is the end of input, and an empty one issues no block (R277). -/
def stepWriteLoop (src : List Fill) (rest : List Task) (s : State) : State :=
  if s.toBlk.toNat < s.toNblk.toNat ∧ s.eoi = false then
    match nextFill src with
    | .storageError d => s.raise (.storageError d)
    | .bytes bs =>
      let got := takenBytes s.cfg bs
      if got.length = 0 then { s with eoi := true, tasks := .writeEnd :: rest }
      else
        { s with
          eoi := decide (got.length < s.cfg.blockSize)
          buf := paddedBlock s.cfg got
          tasks := .op (.programBlock s.toOff.toNat (paddedBlock s.cfg got)) :: .blockDone ::
            .writeLoop src.tail :: rest }
  else { s with tasks := .writeEnd :: rest }

/-- `TO_BLK <- TO_BLK + 1 ; TO_OFF <- TO_OFF + BLOCK_SIZE` (R276, R280). -/
def State.advanceBlock (s : State) : State :=
  { s with toBlk := s.toBlk + 1#19, toOff := s.toOff + BitVec.ofNat 19 s.cfg.blockSize }

/-- The end of one block of the write pass. -/
def stepBlockDone (rest : List Task) (s : State) : State := { s.advanceBlock with tasks := rest }

/-- The end of the write pass (R276, R279). -/
def stepWriteEnd (rest : List Task) (s : State) : State :=
  { s with tasks := rest, fpState := .done, toMode := .none, result := .doneWrite s.toBlk.toNat s.eoi }

/-! ### The read pass -/

/-- `TO.READ_ALL snk` (R280). -/
def execToReadAll (snk : List Ack) (s : State) : Host.Outcome State Fault Refusal :=
  issue (s.passReady && (s.fpState == .idle || s.fpState == .done)) s
    ({ s with toMode := .read, toBlk := 0#19, toOff := 0#19, sunk := [] }.push [.readLoop snk])

/-- One turn of the read loop (R280). -/
def stepReadLoop (snk : List Ack) (rest : List Task) (s : State) : State :=
  if s.toBlk.toNat < s.toNblk.toNat then
    { s with tasks := .op (.flashRead s.toOff.toNat s.cfg.blockSize) :: .appendBlock snk :: rest }
  else { s with tasks := rest, toMode := .none, result := .doneRead s.toBlk.toNat }

/-- `BUF` takes the block read and it is appended to the sink, which may return `StorageError` (R280). -/
def stepAppendBlock (snk : List Ack) (rest : List Task) (s : State) : State :=
  match nextAck snk with
  | .storageError d => { s with buf := s.resultBytes }.raise (.storageError d)
  | .accepted =>
    { s.advanceBlock with
      buf := s.resultBytes, sunk := s.sunk ++ [s.resultBytes], tasks := .readLoop snk.tail :: rest }

/-! ### Session end and recovery -/

/-- The body of `TO.SESSION_END` (60_exceptions.md R305) up to, not including, `OWNER <- FREE`. DESIGN CHOICE
(notes/assumptions/10.md): fields and target registers that 10_state.md R49 calls unspecified afterwards keep what they held
or what was known of them. -/
def State.endSession (s : State) : State :=
  { s.teardown with
    chipState := .unset, dmaEnabled := false, fpState := .idle, eoi := false
    toMode := .none, toNblk := 0#19, toBlk := 0#19, toOff := 0#19 }

/-- `TO.SESSION_END` (60_exceptions.md R305); ERR is kept. -/
def execToSessionEnd (s : State) : Host.Outcome State Fault Refusal :=
  issue s.held s ({ s.endSession with owner := .free }.ret .unit)

/-- `TO.RESTART` (60_exceptions.md R306): teardown, ERR cleared, the settling delay, then ownership released. -/
def execToRestart (s : State) : Host.Outcome State Fault Refusal :=
  issue s.held s ({ s.endSession with err := 0#3 }.push [.sleep s.cfg.settleDelay, .release])

/-- `OWNER <- FREE` (60_exceptions.md R306). -/
def stepRelease (rest : List Task) (s : State) : State := { s with tasks := rest, owner := .free, result := .unit }

end Sys2Proof.Machine
end

