-- ==== Sys2Proof/Machine/TargetCommands.lean ====
section
/-! DEFINITION. The target commands as the target executes them (30_encoding.md R109 to R112; 42_access_layer.md R211,
R217; 20_memory.md R69, R78 to R82) and the transfer a DMA descriptor describes (R81, 30_encoding.md R106, R107). The
target is the environment contract, not the block: what the contract does not fix is a free value or is forgotten
(notes/assumptions/7.md). -/

namespace Sys2Proof.Machine

/-- The response the contract says a command produces (20_memory.md R80). DESIGN CHOICE (notes/assumptions/37.md): bits of
an earlier response that the block has not clocked are dropped. -/
def Target.answer (t : Target) (bytes : List Byte) : Target := { t with resp := bytes.flatMap byteBits }

/-- A command has its effect on a target that is in debug mode and in step with the frames; on another nothing is known
of what it does (20_memory.md R79, R82). -/
def State.command (s : State) (effect : Target → Target) : State :=
  { s with target := if s.target.inDebug then effect s.target else s.target.unknownCommand s.clock }

/-- A response byte no rule fixes (93_implementation_defined.md G5, G18). -/
def State.anyByte (s : State) : Byte := Config.freeByte s.clock 3

/-- A second one. -/
def State.anyByte2 (s : State) : Byte := Config.freeByte s.clock 4

/-- CHIP_ERASE (43_flash_program.md R238; 20_memory.md R69): the whole flash is erased; what erased flash reads as is not
in the source (93_implementation_defined.md G22). DESIGN CHOICE (notes/assumptions/35.md): the erase is complete in the step
of its command, and only the poll tells the block so. -/
def execChipErase (s : State) : Host.Outcome State Fault Refusal :=
  .next (s.command fun t => { t with flash := [], erased := true }.answer [s.anyByte])

/-- WR_CONFIG (30_encoding.md R110, 10_state.md R42). -/
def execWrConfig (c : Byte) (s : State) : Host.Outcome State Fault Refusal :=
  .next (s.command fun t => { t with config := c }.answer [s.anyByte])

/-- READ_STATUS (10_state.md R42, 43_flash_program.md R239): the status byte is the target's to choose. DESIGN CHOICE
(notes/assumptions/7.md): reading it has no side effect, which 20_memory.md R69 only assumes (93_implementation_defined.md
G23). -/
def execReadStatus (s : State) : Host.Outcome State Fault Refusal :=
  .next (s.command fun t => t.answer [s.anyByte])

/-- GET_CHIP_ID (30_encoding.md R111): two response bytes, the target's to choose. DESIGN CHOICE (notes/assumptions/7.md):
reading them has no side effect. -/
def execGetChipId (s : State) : Host.Outcome State Fault Refusal :=
  .next (s.command fun t => t.answer [s.anyByte, s.anyByte2])

/-! ### Emulated instructions (30_encoding.md R109) -/

/-- `pointer <- a`. -/
def Target.movDptr (t : Target) (a : Half) : Target := { t with dptr := a }

/-- `accumulator <- v`. -/
def Target.movA (t : Target) (v : Byte) : Target := { t with acc := v }

/-- Bytes reach the debug-data buffer (10_state.md R41, R69) and trigger channel A, which takes every one of them while it
is armed (70_reset_and_hazards.md R343 c): they wait behind those it has not yet moved. Where A is not known to be armed,
or DMA not known to be enabled (43_flash_program.md R241), nothing is known of target RAM afterwards
(notes/assumptions/28.md). -/
def Target.delivered (t : Target) (cfg : Config) (data : List Byte) : Target :=
  if t.armedA && t.config == cfg.configEnableDma then
    { t with dbg := t.dbg ++ data, pending := if .chA ∈ t.pending then t.pending else t.pending ++ [.chA] }
  else { t with xdata := [] }

/-- Nothing is known of flash any more, nor whether channel B is armed (notes/assumptions/7.md). -/
def Target.loseFlash (t : Target) : Target := { t with flash := [], erased := false, armedB := false }

/-- A store in the arm register (20_memory.md R69): an arm value arms its channel. DESIGN CHOICE
(notes/assumptions/32.md): after any other value neither channel is known to be armed. DESIGN CHOICE
(notes/assumptions/42.md): arming one channel leaves the other as it was. -/
def Target.armStored (t : Target) (cfg : Config) (v : Byte) : Target :=
  if v = cfg.armA ∨ v = cfg.armB then
    { t with armedA := t.armedA || v == cfg.armA, armedB := t.armedB || v == cfg.armB }
  else { t with armedA := false, armedB := false }

/-- The side effects of a store (20_memory.md R69): in the arm register, `Target.armStored`; the write value of the flash
controller starts programming through channel B, and where B is not known to be armed, or DMA not known to be enabled
(43_flash_program.md R240, notes/assumptions/7.md), nothing is known of flash; a byte stored in the debug-data buffer reaches it as a burst's byte does (70_reset_and_hazards.md R343 c). DESIGN CHOICE
(notes/assumptions/32.md): any other value in the flash controller, and any in the flash write-data register, whose effect
the source does not give, leaves nothing of flash known; a store anywhere else has no side effect. DESIGN CHOICE
(notes/assumptions/39.md): where two register parameters agree, the first in the order arm register, flash controller, flash
write-data register, debug-data buffer is taken. DESIGN CHOICE (notes/assumptions/40.md): every trigger of channel B is one
transfer more. -/
def Target.stored (t : Target) (cfg : Config) (a : Half) (v : Byte) : Target :=
  if a = cfg.addrDmaarm then t.armStored cfg v
  else if a = cfg.addrFctl then
    if v = cfg.fctlWriteValue ∧ t.armedB = true ∧ t.config = cfg.configEnableDma then
      { t with pending := t.pending ++ [.chB] }
    else t.loseFlash
  else if a = cfg.addrFwdata then t.loseFlash
  else if a = cfg.addrDbgdata then t.delivered cfg [v]
  else t

/-- `XDATA[pointer] <- accumulator`, with the side effects of that store. DESIGN CHOICE (notes/assumptions/32.md): so does a
store in the bank window, where loads go on reading flash. -/
def Target.movxSt (t : Target) (cfg : Config) : Target :=
  { t with xdata := t.xdata.write t.dptr.toNat t.acc }.stored cfg t.dptr t.acc

/-- What a load at an address finds, where the block knows it: in the bank window the flash byte that the bank-select
register picks (20_memory.md R74), in a register nothing (10_state.md R41), elsewhere the byte stored. DESIGN CHOICE
(notes/assumptions/33.md): at an address both in the window and a register's, the flash byte. -/
def Target.loaded (t : Target) (cfg : Config) (a : Half) : Option Byte :=
  if inRegion cfg.bankWindowBase bankSize a.toNat then
    match t.xdata.read cfg.addrMemctr.toNat with
    | some b => t.flash.read (b.toNat * bankSize + (a.toNat - cfg.bankWindowBase.toNat))
    | none => none
  else if a ∈ registerAddresses cfg then none
  else t.xdata.read a.toNat

/-- `accumulator <- XDATA[pointer]`; a byte the block does not know is a free value. DESIGN CHOICE (notes/assumptions/7.md):
a load has no side effect, at a polled register or in the bank window, of which 20_memory.md R69 only assumes it
(93_implementation_defined.md G23), or anywhere else. -/
def Target.movxLd (t : Target) (cfg : Config) (free : Byte) : Target :=
  { t with acc := (t.loaded cfg t.dptr).getD free }

/-- `pointer <- pointer + 1`; past 0xFFFF any value (20_memory.md R85, 93_implementation_defined.md G12). -/
def Target.incDptr (t : Target) (free : Half) : Target :=
  { t with dptr := if t.dptr = 0xFFFF#16 then free else t.dptr + 1#16 }

/-- T.MOV_DPTR (42_access_layer.md R214). -/
def execTMovDptr (a : Half) (s : State) : Host.Outcome State Fault Refusal :=
  .next (s.command fun t => (t.movDptr a).answer [s.anyByte])

/-- T.MOV_A (42_access_layer.md R211). -/
def execTMovA (v : Byte) (s : State) : Host.Outcome State Fault Refusal :=
  .next (s.command fun t => (t.movA v).answer [s.anyByte])

/-- T.MOVX_ST (42_access_layer.md R211). -/
def execTMovxSt (s : State) : Host.Outcome State Fault Refusal :=
  .next (s.command fun t => (t.movxSt s.cfg).answer [s.anyByte])

/-- T.MOVX_LD (42_access_layer.md R217): the response byte is the byte loaded. -/
def execTMovxLd (s : State) : Host.Outcome State Fault Refusal :=
  .next (s.command fun t => (t.movxLd s.cfg s.anyByte).answer [(t.movxLd s.cfg s.anyByte).acc])

/-- T.INC_DPTR (42_access_layer.md R216). -/
def execTIncDptr (s : State) : Host.Outcome State Fault Refusal :=
  .next (s.command fun t => (t.incDptr (Config.freeHalf s.clock 1)).answer [s.anyByte])

/-- A debug instruction whose bytes are none of the five (30_encoding.md R109, R112): the target executes it, and the
source does not say what it does. -/
def Target.unknownInstr (t : Target) (n : Nat) (response : Byte) : Target := (t.forget n).answer [response]

/-- DEBUG_INSTR_1 with another instruction byte. -/
def execDebugInstr1 (i0 : Byte) (s : State) : Host.Outcome State Fault Refusal :=
  .next (s.command fun t =>
    if i0 = s.cfg.iMovxSt then (t.movxSt s.cfg).answer [s.anyByte]
    else if i0 = s.cfg.iMovxLd then (t.movxLd s.cfg s.anyByte).answer [(t.movxLd s.cfg s.anyByte).acc]
    else if i0 = s.cfg.iIncDptr then (t.incDptr (Config.freeHalf s.clock 1)).answer [s.anyByte]
    else t.unknownInstr s.clock s.anyByte)

/-- DEBUG_INSTR_2 with another instruction byte. -/
def execDebugInstr2 (i0 i1 : Byte) (s : State) : Host.Outcome State Fault Refusal :=
  .next (s.command fun t =>
    if i0 = s.cfg.iMovA then (t.movA i1).answer [s.anyByte] else t.unknownInstr s.clock s.anyByte)

/-- DEBUG_INSTR_3 with another instruction byte. -/
def execDebugInstr3 (i0 i1 i2 : Byte) (s : State) : Host.Outcome State Fault Refusal :=
  .next (s.command fun t =>
    if i0 = s.cfg.iMovDptr then (t.movDptr (be16 i1 i2)).answer [s.anyByte] else t.unknownInstr s.clock s.anyByte)

/-! ### Burst and DMA (20_memory.md R69, R81) -/

/-- BURST_WRITE (30_encoding.md R108, 43_flash_program.md R249): one response byte, the ack, of any value. -/
def execBurstWrite (data : List Byte) (s : State) : Host.Outcome State Fault Refusal :=
  .next (s.command fun t => (t.delivered s.cfg data).answer [s.anyByte])

/-- One byte of flash programming: known only where the location is erased and not yet programmed
(70_reset_and_hazards.md R344 c). After a location has been programmed twice none is known to be erased any more, so it
stays unknown until the next chip erase (notes/assumptions/7.md). -/
def Target.programByte (t : Target) (a : Nat) (v : Byte) : Target :=
  match t.flash.read a with
  | none => if t.erased then { t with flash := t.flash.write a v } else t
  | some _ => { t with flash := t.flash.erase a, erased := false }

/-- Programming of consecutive flash bytes. -/
def Target.programBytes : Target → Nat → List Byte → Target
  | t, _, [] => t
  | t, a, v :: vs => Target.programBytes (t.programByte a v) (a + 1) vs

/-- The flash start address the target holds in FADDRH and FADDRL (20_memory.md R72), where the block knows it. DESIGN CHOICE (notes/assumptions/43.md): it is what was last stored there, also
after a block has been programmed. -/
def Target.flashStart (t : Target) (cfg : Config) : Option Nat :=
  match t.xdata.read cfg.addrFaddrh.toNat, t.xdata.read cfg.addrFaddrl.toNat with
  | some h, some l => some ((be16 h l).toNat * 4)
  | _, _ => none

/-- Channel A's transfer (20_memory.md R81): the burst bytes to the staging buffer. A length other than the burst's, or
one that passes 0xFFFF, is a hazard (70_reset_and_hazards.md R344) after which nothing is known of target RAM. DESIGN CHOICE
(notes/assumptions/36.md): a byte stored at a register's address is only stored, no channel is armed and nothing started; but
it is what that register then holds, so that one stored at ADDR_MEMCTR remaps the bank window (`Target.loaded`), one at
FADDRH or FADDRL moves the flash start address (`Target.flashStart`) and one at a channel-config register its descriptor.
DESIGN CHOICE (notes/assumptions/43.md): the descriptors and the registers the transfer does not cover keep what they
hold. -/
def Target.transferA (t : Target) (dst len : Half) : Target :=
  if t.dbg.length = len.toNat ∧ dst.toNat + len.toNat ≤ 65536 then
    { t with xdata := t.xdata.writeBytes dst.toNat t.dbg, dbg := [], armedA := false }
  else { t with xdata := [], dbg := [], armedA := false }

/-- Channel B's transfer (20_memory.md R81): the staging buffer to the flash controller. Where the staged bytes are not
known, nothing is known of flash afterwards. DESIGN CHOICE (notes/assumptions/36.md): at a register's address it reads the
byte stored there. DESIGN CHOICE (notes/assumptions/43.md): the descriptors and the registers, FADDRH and FADDRL among them,
keep what they hold. -/
def Target.transferB (t : Target) (start : Nat) (src len : Half) : Target :=
  match t.xdata.readBytes src.toNat len.toNat with
  | some bytes => { t.programBytes start bytes with armedB := false }
  | none => t.loseFlash

/-- DMA_DESCRIPTOR (30_encoding.md R106, R107; 20_memory.md R81): the autonomous copy a descriptor describes. From the
debug-data buffer it is channel A's, to the flash write-data register channel B's; of another nothing is known. The
source gives the control bytes no content. DESIGN CHOICE (notes/assumptions/38.md): all sixteen length bits are a plain
length. DESIGN CHOICE (notes/assumptions/34.md): what channel B does past the last flash address, which does not exist
(20_memory.md R60), is open; nothing is known of flash afterwards. DESIGN CHOICE (notes/assumptions/41.md): after a
transfer of which nothing is known no byte waits for channel A any more. -/
def execDmaDescriptor (src dst len : Half) (_c0 _c1 : Byte) (s : State) : Host.Outcome State Fault Refusal :=
  if !s.target.inDebug then .next { s with target := s.target.forget s.clock }
  else if src = s.cfg.addrDbgdata then .next { s with target := s.target.transferA dst len }
  else if dst = s.cfg.addrFwdata then
    match s.target.flashStart s.cfg with
    | some start =>
      .next { s with
        target := if start + len.toNat ≤ flashSize then s.target.transferB start src len else s.target.loseFlash }
    | none => .next { s with target := s.target.loseFlash }
  else .next { s with target := s.target.forget s.clock }

end Sys2Proof.Machine
end

