-- ==== Sys2Proof/Machine/Dispatch.lean ====
section
/-! DEFINITION. The dispatch: one arm per row of spec/opcode_table.json. -/

namespace Sys2Proof.Machine

def exec (i : Instr) (s : State) : Host.Outcome State Fault Refusal :=
  match i with
  | .leLoad v => Sys2Proof.Machine.execLeLoad v s
  | .leStart => Sys2Proof.Machine.execLeStart s
  | .leStop => Sys2Proof.Machine.execLeStop s
  | .leAbort => Sys2Proof.Machine.execLeAbort s
  | .leDeinit => Sys2Proof.Machine.execLeDeinit s
  | .leSwitch v => Sys2Proof.Machine.execLeSwitch v s
  | .leAttach => Sys2Proof.Machine.execLeAttach s
  | .cpXchg f => Sys2Proof.Machine.execCpXchg f s
  | .alWrite a v => Sys2Proof.Machine.execAlWrite a v s
  | .alRead a => Sys2Proof.Machine.execAlRead a s
  | .alWriteBlock a bs => Sys2Proof.Machine.execAlWriteBlock a bs s
  | .alReadBlockBanked a n => Sys2Proof.Machine.execAlReadBlockBanked a n s
  | .idLookup b => Sys2Proof.Machine.execIdLookup b s
  | .idRead => Sys2Proof.Machine.execIdRead s
  | .fpErase => Sys2Proof.Machine.execFpErase s
  | .fpEnableDma => Sys2Proof.Machine.execFpEnableDma s
  | .fpConfigDma len => Sys2Proof.Machine.execFpConfigDma len s
  | .fpBurstLoad a bs => Sys2Proof.Machine.execFpBurstLoad a bs s
  | .fpProgram => Sys2Proof.Machine.execFpProgram s
  | .fpClockInit => Sys2Proof.Machine.execFpClockInit s
  | .fpWriteBlock a bs => Sys2Proof.Machine.execFpWriteBlock a bs s
  | .frRead a n => Sys2Proof.Machine.execFrRead a n s
  | .toSessionStart => Sys2Proof.Machine.execToSessionStart s
  | .toWriteAll src => Sys2Proof.Machine.execToWriteAll src s
  | .toReadAll snk => Sys2Proof.Machine.execToReadAll snk s
  | .toRestart => Sys2Proof.Machine.execToRestart s
  | .toSessionEnd => Sys2Proof.Machine.execToSessionEnd s
  | .simpleWord op6 cnt p0 p1 p2 => Sys2Proof.Machine.execSimpleWord op6 cnt p0 p1 p2 s
  | .null ignored => Sys2Proof.Machine.execNull ignored s
  | .chipErase => Sys2Proof.Machine.execChipErase s
  | .wrConfig c => Sys2Proof.Machine.execWrConfig c s
  | .readStatus => Sys2Proof.Machine.execReadStatus s
  | .debugInstr1 i0 => Sys2Proof.Machine.execDebugInstr1 i0 s
  | .debugInstr2 i0 i1 => Sys2Proof.Machine.execDebugInstr2 i0 i1 s
  | .debugInstr3 i0 i1 i2 => Sys2Proof.Machine.execDebugInstr3 i0 i1 i2 s
  | .tMovDptr a => Sys2Proof.Machine.execTMovDptr a s
  | .tMovA v => Sys2Proof.Machine.execTMovA v s
  | .tMovxSt => Sys2Proof.Machine.execTMovxSt s
  | .tMovxLd => Sys2Proof.Machine.execTMovxLd s
  | .tIncDptr => Sys2Proof.Machine.execTIncDptr s
  | .extPrefix wcount rcount => Sys2Proof.Machine.execExtPrefix wcount rcount s
  | .extStreamWord s0 s1 s2 s3 => Sys2Proof.Machine.execExtStreamWord s0 s1 s2 s3 s
  | .extNull ignored => Sys2Proof.Machine.execExtNull ignored s
  | .getChipId => Sys2Proof.Machine.execGetChipId s
  | .burstWrite data => Sys2Proof.Machine.execBurstWrite data s
  | .respWord nr data => Sys2Proof.Machine.execRespWord nr data s
  | .dmaDescriptor src dst len c0 c1 => Sys2Proof.Machine.execDmaDescriptor src dst len c0 c1 s
  | .pStopped => Sys2Proof.Machine.execPStopped s
  | .atAssert => Sys2Proof.Machine.execAtAssert s
  | .atHold => Sys2Proof.Machine.execAtHold s
  | .atHi => Sys2Proof.Machine.execAtHi s
  | .atHihold => Sys2Proof.Machine.execAtHihold s
  | .atLo => Sys2Proof.Machine.execAtLo s
  | .atLohold => Sys2Proof.Machine.execAtLohold s
  | .atRelease => Sys2Proof.Machine.execAtRelease s
  | .atSettle => Sys2Proof.Machine.execAtSettle s
  | .atDone => Sys2Proof.Machine.execAtDone s
  | .cIdleSimple => Sys2Proof.Machine.execCIdleSimple s
  | .cIdleExt => Sys2Proof.Machine.execCIdleExt s
  | .cFetch0 => Sys2Proof.Machine.execCFetch0 s
  | .cDirout => Sys2Proof.Machine.execCDirout s
  | .cTxset => Sys2Proof.Machine.execCTxset s
  | .cTxhi => Sys2Proof.Machine.execCTxhi s
  | .cTxhold => Sys2Proof.Machine.execCTxhold s
  | .cTxlo => Sys2Proof.Machine.execCTxlo s
  | .cRefill => Sys2Proof.Machine.execCRefill s
  | .cDirin => Sys2Proof.Machine.execCDirin s
  | .cSample => Sys2Proof.Machine.execCSample s
  | .cRxhi => Sys2Proof.Machine.execCRxhi s
  | .cRxhold => Sys2Proof.Machine.execCRxhold s
  | .cRxlo => Sys2Proof.Machine.execCRxlo s
  | .cPush => Sys2Proof.Machine.execCPush s

end Sys2Proof.Machine
end

