-- ==== Sys2Proof/Machine/HostTasks.lean ====
section
/-! DEFINITION. One step of the host context inside an operation: what each entry of `tasks` does, and the operation
each sub-operation is. -/

namespace Sys2Proof.Machine

/-- The operation a sub-operation is. -/
def SubOp.instr : SubOp → Instr
  | .attach => .leAttach
  | .xchg f => .cpXchg f
  | .write a v => .alWrite a v
  | .read a => .alRead a
  | .writeBlock a bs => .alWriteBlock a bs
  | .readBanked a n => .alReadBlockBanked a n
  | .idRead => .idRead
  | .erase => .fpErase
  | .enableDma => .fpEnableDma
  | .configDma len => .fpConfigDma len
  | .burstLoad a bs => .fpBurstLoad a bs
  | .program => .fpProgram
  | .clockInit => .fpClockInit
  | .programBlock a bs => .fpWriteBlock a bs
  | .flashRead a n => .frRead a n

/-- One step of the host context at a point of an operation that is not a call, with `rest` what follows it. -/
def stepTask (t : Task) (rest : List Task) (s : State) : State :=
  match t with
  | .op _ => s
  | .waitDone => if s.leDone then { s with tasks := rest, result := .unit } else s
  | .send words => stepSend words rest s
  | .await f => stepAwait f rest s
  | .arm i => { s.armTimer i with tasks := rest }
  | .retUnit => { s with tasks := rest, result := .unit }
  | .idRet => stepIdRet rest s
  | .identify => stepIdentify rest s
  | .dmaEnabled => stepDmaEnabled rest s
  | .erasePoll => stepErasePoll rest s
  | .eraseTest => stepEraseTest rest s
  | .configDone len => stepConfigDone len rest s
  | .burstDone => stepBurstDone rest s
  | .progPoll => stepProgPoll rest s
  | .progTest => stepProgTest rest s
  | .clockPoll => stepClockPoll rest s
  | .clockTest => stepClockTest rest s
  | .readSeg a n out => stepReadSeg a n out rest s
  | .readByte m a n out => stepReadByte m a n out rest s
  | .readGot m a n out => stepReadGot m a n out rest s
  | .writeLoop src => stepWriteLoop src rest s
  | .blockDone => stepBlockDone rest s
  | .writeEnd => stepWriteEnd rest s
  | .readLoop snk => stepReadLoop snk rest s
  | .appendBlock snk => stepAppendBlock snk rest s
  | .sleep _ => { s with tasks := rest }
  | .release => stepRelease rest s

end Sys2Proof.Machine
end

