-- ==== Sys2Proof/Machine/Fetch.lean ====
section
/-! DEFINITION. What each agent takes up next (00_scope.md R13, 60_exceptions.md R314): the host context its requests,
its sub-operations and the response words; the sequencer its phase and the words of TXF; the target the frames it has
received; the target's DMA controller the descriptor of a triggered channel. -/

namespace Sys2Proof.Machine

/-- The agent a free turn names (notes/assumptions/3.md). -/
def agentOf (b : BitVec 2) : Agent :=
  if b = 0#2 then .host else if b = 1#2 then .sequencer else if b = 2#2 then .target else .dma

/-- Which agent moves: the next listed turn, else a free one. -/
def State.mover (s : State) : Agent :=
  match s.turns with
  | a :: _ => a
  | [] => agentOf (Config.freeTurn s.clock)

/-- The step counter advances and the turn is taken. -/
def State.begin (s : State) : State := { s with clock := s.clock + 1, turns := s.turns.tail }

/-- What an agent does with its turn. -/
inductive Move
  /-- Decode a code and run the instruction in a state from which the code has been taken. -/
  | code (c : Code) (s : State)
  /-- Run the instruction a sub-operation is. -/
  | call (i : Instr) (s : State)
  /-- Pass a point of an operation. -/
  | point (t : Task) (rest : List Task) (s : State)
  /-- Nothing to do. -/
  | idle (s : State)
  deriving DecidableEq, Repr

/-- The turn of the host context: the operation in progress, innermost first (20_memory.md R76), and when none is, the
next request. Inside CP.XCHG a response word is popped where one is wanted and there (41_command_protocol.md R185). -/
def State.hostMove (s : State) : Move :=
  match s.tasks with
  | .op o :: rest => .call o.instr { s with tasks := rest }
  | .await f :: rest =>
    if s.ws.length < f.rcount then
      match s.rxf with
      | w :: ws => .code (.resp w) { s with rxf := ws }
      | [] => .point (.await f) rest s
    else .point (.await f) rest s
  | t :: rest => .point t rest s
  | [] =>
    match s.req with
    | r :: rs => .code (.hop r.hop r.args) { s with req := rs }
    | [] => .idle s

/-- The turn of the sequencer (40_link_engine.md R130, R132): the phase it is at, or where that phase pops a word and
one is there (R150, R151, R152, R158), the word, read in the format of the phase and variant (30_encoding.md R114). -/
def State.seqMove (s : State) : Move :=
  if s.life = .running then
    match s.phase, s.variant, s.txf with
    | .cIdle, .vSimple, w :: rest => .code (.simple w) { s with txf := rest }
    | .cIdle, .vExt, w :: rest => .code (.extPrefix w) { s with txf := rest }
    | .cFetch0, .vExt, w :: rest => .code (.extStream0 w) { s with txf := rest }
    | .cRefill, .vExt, w :: rest => .code (.extStream w) { s with txf := rest }
    | p, v, _ => .code (.phase v p.code) s
  else .code (.phase s.variant Phase.pStopped.code) s

/-- The turn of the target: the oldest frame received and not yet executed (20_memory.md R80). -/
def State.targetMove (s : State) : Move :=
  match s.target.inbox with
  | f :: rest => .code (.command f) { s with target := { s.target with inbox := rest } }
  | [] => .idle s

/-- The address a channel's config registers hold (43_flash_program.md R245), where the block knows it. -/
def Target.descAddress (t : Target) (cfg : Config) : Channel → Option Nat
  | .chA =>
    match t.xdata.read cfg.addrDma0cfgh.toNat, t.xdata.read cfg.addrDma0cfgl.toNat with
    | some h, some l => some (be16 h l).toNat
    | _, _ => none
  | .chB =>
    match t.xdata.read cfg.addrDma1cfgh.toNat, t.xdata.read cfg.addrDma1cfgl.toNat with
    | some h, some l => some (be16 h l).toNat
    | _, _ => none
  | .chUnknown => none

/-- The descriptor of a channel (30_encoding.md R106), where the block knows all of it. -/
def Target.descriptor (t : Target) (cfg : Config) (c : Channel) : Option (List Byte) :=
  match t.descAddress cfg c with
  | some a => t.xdata.readBytes a descLen
  | none => none

/-- The turn of the DMA controller: the oldest transfer triggered and not yet made (20_memory.md R81). DEDUCED
(notes/assumptions/28.md): it reads the config registers and the descriptor at this turn. Where the
descriptor is not known, nothing is known of what the target holds afterwards (notes/assumptions/7.md); the block does not
see the step. DESIGN CHOICE (notes/assumptions/41.md): no byte waits for channel A any more. -/
def State.dmaMove (s : State) : Move :=
  match s.target.pending with
  | c :: rest =>
    match s.target.descriptor s.cfg c with
    | some d => .code (.desc d) { s with target := { s.target with pending := rest } }
    | none => .idle { s with target := { s.target with pending := rest }.forget s.clock }
  | [] => .idle s

/-- The turn of an agent. -/
def State.move (s : State) : Agent → Move
  | .host => s.hostMove
  | .sequencer => s.seqMove
  | .target => s.targetMove
  | .dma => s.dmaMove

/-- What happens where the decoder gives no instruction: a HOP value outside the table is refused (30_encoding.md R120);
a phase the variant does not have stops the machine (93_implementation_defined.md G16); a frame that is no command of
the table may do anything to the target (30_encoding.md R112, G5). -/
def rejected (c : Code) (s : State) : Host.Outcome State Fault Refusal :=
  match c with
  | .hop _ _ => .next s.refuse
  | .phase v p => .fault (.illegalPhase v p)
  | .desc _ => .next { s with target := s.target.forget s.clock }
  | _ => .next { s with target := s.target.unknownCommand s.clock }

/-! ### Placing one instruction where it is fetched -/

/-- The phase a code names. -/
def phaseOf (code : Byte) : Phase :=
  match code.toNat with
  | 0x10 => .atAssert
  | 0x11 => .atHold
  | 0x12 => .atHi
  | 0x13 => .atHihold
  | 0x14 => .atLo
  | 0x15 => .atLohold
  | 0x16 => .atRelease
  | 0x17 => .atSettle
  | 0x18 => .atDone
  | 0x20 => .cIdle
  | 0x21 => .cFetch0
  | 0x22 => .cDirout
  | 0x23 => .cTxset
  | 0x24 => .cTxhi
  | 0x25 => .cTxhold
  | 0x26 => .cTxlo
  | 0x27 => .cRefill
  | 0x28 => .cDirin
  | 0x29 => .cSample
  | 0x2A => .cRxhi
  | 0x2B => .cRxhold
  | 0x2C => .cRxlo
  | 0x2D => .cPush
  | _ => .pStopped

/-- The sequencer running a variant at a phase with these words before it, its turn next. -/
def State.atPhase (s : State) (v : Variant) (p : Phase) (words : List Word) : State :=
  { s with life := .running, variant := v, phase := p, txf := words, turns := .sequencer :: s.turns }

/-- The machine with one code placed where its agent takes its next instruction, that agent's turn next. -/
def State.place (s : State) : Code → State
  | .hop code args => { s with tasks := [], req := { hop := code, args := args } :: s.req, turns := .host :: s.turns }
  | .phase v code =>
    if code = 0#8 then { s with life := .unloaded, variant := v, phase := .pStopped, turns := .sequencer :: s.turns }
    else s.atPhase v (phaseOf code) []
  | .simple w => s.atPhase .vSimple .cIdle [w]
  | .extPrefix w => s.atPhase .vExt .cIdle [w]
  | .extStream0 w => s.atPhase .vExt .cFetch0 [w]
  | .extStream w => s.atPhase .vExt .cRefill [w]
  | .command bytes =>
    { s with
      target := { s.target with inDebug := true, inbox := bytes :: s.target.inbox }
      turns := .target :: s.turns }
  | .resp w =>
    { s with
      tasks := .await (nullFrame s.cfg .simple 1) :: s.tasks, ws := [], rxf := w :: s.rxf, turns := .host :: s.turns }
  | .desc bytes =>
    { s with
      target :=
        { s.target with
          inDebug := true
          xdata :=
            (((s.target.xdata.writeBytes s.cfg.addrDescA.toNat bytes).write s.cfg.addrDma0cfgh.toNat
              (hi s.cfg.addrDescA)).write s.cfg.addrDma0cfgl.toNat (lo s.cfg.addrDescA))
          pending := .chA :: s.target.pending }
      turns := .dma :: s.turns }

end Sys2Proof.Machine
end

