-- ==== Sys2Proof/Machine/Step.lean ====
section
/-! DEFINITION. The step function: one agent moves (00_scope.md R13; 40_link_engine.md R131 for their interleaving). -/

namespace Sys2Proof.Machine

/-- What a move does. -/
def run : Move → Host.Outcome State Fault Refusal
  | .code c s =>
    match decode s.cfg c with
    | .ok i => exec i s
    | .error _ => rejected c s
  | .call i s => exec i s
  | .point t rest s => .next (stepTask t rest s)
  | .idle s => .next s

/-- One step of the machine: the counter advances, the turn is taken, and the agent whose turn it is moves. -/
def step (s : State) : Host.Outcome State Fault Refusal := run (s.begin.move s.mover)

/-- `s` with the instruction of bits `w` where the next step takes it from (notes/assumptions/8.md). -/
def State.withFetchWord (s : State) (nbits w : Nat) : State :=
  match tableCode nbits w with
  | some c => s.place c
  | none => s

end Sys2Proof.Machine
end

