-- ==== Sys2Proof/Safety.lean ====
section
/-! DEFINITION. What counts as a safe state and a safe run, in the terms the statements use. -/

namespace Sys2Proof

/-! ### The phases -/

/-- The phases in which the block drives the data line (40_link_engine.md R168). -/
def Phase.sending : Phase → Bool
  | .cTxset | .cTxhi | .cTxhold | .cTxlo | .cRefill => true
  | _ => false

/-- The phases in which the strobe is high (R143 to R145, R155 to R157, R162 to R164). -/
def Phase.strobeHigh : Phase → Bool
  | .atHihold | .atLo | .cTxhold | .cTxlo | .cRxhold | .cRxlo => true
  | _ => false

/-- The phases in which the target's reset is low (70_reset_and_hazards.md R332). -/
def Phase.resetLow : Phase → Bool
  | .atHold | .atHi | .atHihold | .atLo | .atLohold | .atRelease => true
  | _ => false

/-- The phases of each variant's program (10_state.md R28). -/
def Variant.has : Variant → Phase → Bool
  | .vNone, _ => false
  | .vAttach, p =>
    match p with
    | .atAssert | .atHold | .atHi | .atHihold | .atLo | .atLohold | .atRelease | .atSettle | .atDone => true
    | _ => false
  | .vSimple, p =>
    match p with
    | .cIdle | .cDirout | .cTxset | .cTxhi | .cTxhold | .cTxlo | .cDirin | .cSample | .cRxhi | .cRxhold | .cRxlo
    | .cPush => true
    | _ => false
  | .vExt, p =>
    match p with
    | .cIdle | .cFetch0 | .cDirout | .cTxset | .cTxhi | .cTxhold | .cTxlo | .cRefill | .cDirin | .cSample | .cRxhi
    | .cRxhold | .cRxlo | .cPush => true
    | _ => false

end Sys2Proof

namespace Sys2Proof.Machine

/-! ### The Link Engine -/

/-- Lifecycle, variant and phase agree (10_state.md R26 to R28). -/
def State.lifeLegal (s : State) : Bool :=
  match s.life with
  | .unloaded => s.variant == .vNone && s.phase == .pStopped
  | .loaded => s.variant != .vNone && s.phase == .pStopped
  | .running => s.variant.has s.phase

/-- The pins are as the phase says (10_state.md R24, R25; 40_link_engine.md R168): strobe and reset always driven, the
data line driven exactly while sending; C_DIRIN is entered with the driver on after a write phase and off after none
(R160). -/
def State.pinsLegal (s : State) : Bool :=
  s.pinsOe.getLsbD 1 && s.pinsOe.getLsbD 2 && (s.phase == .cDirin || s.ddOe == s.phase.sending) &&
    s.dcOut == s.phase.strobeHigh && s.rstnOut == !s.phase.resetLow

/-- The register holds a value, and one that meets `p`. -/
def Reg.holds {α : Type} (r : Reg α) (p : α → Bool) : Bool := r.written && p r.val

/-- The registers of a frame being sent (40_link_engine.md R150 to R158). `captured` is set in the phases after C_TXSET,
where a count bit on the wire is already in WCNT (R154). -/
def State.sendRegs (s : State) (captured : Bool) : Bool :=
  s.osr.written && s.opc.written && s.rcnt.written && s.wcnt.written && s.txseg.written &&
    s.bitcnt.holds (fun b => decide (1 ≤ b.toNat)) &&
    (match s.txseg.val with
    | .segOp =>
      decide (s.bitcnt.val.toNat ≤ 8) && (s.variant != .vSimple || s.wcnt.val == 0#16)
    | .segCnt =>
      s.variant == .vSimple && decide (s.bitcnt.val.toNat ≤ 2) &&
        decide (s.wcnt.val.toNat < 2 ^ (2 - s.bitcnt.val.toNat + captured.toNat))
    | .segData =>
      decide (s.bitcnt.val.toNat ≤ 8) && s.wcnt.val != 0#16 &&
        s.osrb.holds (fun b => decide (1 ≤ b.toNat) && decide (b.toNat ≤ 4)) &&
        (s.variant != .vSimple || decide (s.wcnt.val.toNat ≤ s.osrb.val.toNat)))

/-- HOLDCNT counts the ticks of a hold down from N_RST_HOLD (40_link_engine.md R142, R148). -/
def State.holdLegal (s : State) : Bool := s.holdcnt.holds (fun h => decide (1 ≤ h) && decide (h ≤ s.cfg.nRstHold))

/-- The registers each phase reads hold values (10_state.md R30, 40_link_engine.md R166), within the ranges of 10_state.md R29. -/
def State.regsLegal (s : State) : Bool :=
  match s.phase with
  | .pStopped | .atAssert | .atDone | .cIdle => true
  | .atHold => s.holdLegal && s.falls.holds (fun f => f == 0#2)
  | .atHi | .atHihold | .atLo => s.falls.holds (fun f => decide (f.toNat < nAttachFalls))
  | .atLohold => s.falls.holds (fun f => decide (1 ≤ f.toNat) && decide (f.toNat ≤ nAttachFalls))
  | .atRelease => s.falls.holds (fun f => f.toNat == nAttachFalls)
  | .atSettle => s.holdLegal
  | .cFetch0 => s.wcnt.written && s.rcnt.written
  | .cDirout | .cTxset => s.sendRegs false
  | .cTxhi | .cTxhold | .cTxlo => s.sendRegs true
  | .cRefill =>
    s.opc.written && s.rcnt.written && s.wcnt.holds (fun w => w != 0#16) && s.txseg.holds (fun g => g == .segData) &&
      s.bitcnt.holds (fun b => b == 8#4)
  | .cDirin => s.rcnt.written
  | .cSample => s.rcnt.written
  | .cRxhi | .cRxhold | .cRxlo =>
    s.rcnt.written && s.isr.written && s.nr.written &&
      s.bitcnt.holds (fun b => decide (1 ≤ b.toNat) && decide (b.toNat ≤ 8))
  | .cPush => s.rcnt.written && s.isr.written && s.nr.written

/-- While reset is low the falling edges on the wire are those FALLS counts (40_link_engine.md R140, R145). -/
def State.fallsLegal (s : State) : Bool := !s.phase.resetLow || s.target.falls == s.falls.val.toNat

/-- The invariant of the Link Engine, for parameters that 00_scope.md R7 allows. -/
def State.linkLegal (s : State) : Bool :=
  parametersLegal s.cfg && s.lifeLegal && s.pinsLegal && s.regsLegal && s.fallsLegal

/-- Neither queue holds more than its depth (10_state.md R32, R33). -/
def State.fifosLegal (s : State) : Bool :=
  decide (s.txf.length ≤ s.cfg.txfDepth) && decide (s.rxf.length ≤ s.cfg.rxfDepth)

/-! ### The host context -/

/-- `ERR` holds a code of 60_exceptions.md R290 that is raised, or none. -/
def State.errLegal (s : State) : Bool := s.err != 5#3 && s.err != 7#3

/-- `TO_OFF = TO_BLK * BLOCK_SIZE` (44_flash_read_and_transfer.md R275), in the 19 bits of 10_state.md R40. -/
def State.offLegal (s : State) : Bool := s.toOff == s.toBlk * BitVec.ofNat 19 s.cfg.blockSize

/-- The target's memories are in canonical form (notes/assumptions/9.md). -/
def State.memLegal (s : State) : Bool := s.target.xdata.wf && s.target.flash.wf

/-- The session has been torn down (60_exceptions.md R305): nothing loaded, no identity, no pass. -/
def State.torndown (s : State) : Bool :=
  s.life == .unloaded && s.chipState == .unset && !s.dmaEnabled && s.fpState == .idle && !s.eoi && s.toMode == .none &&
    s.toNblk == 0#19 && s.toBlk == 0#19 && s.toOff == 0#19

/-- A task that ends a session. -/
def Task.releases : Task → Bool
  | .release => true
  | _ => false

/-- While nobody owns the block it is torn down and idle, and so it is while TO.RESTART settles (10_state.md R35, R49;
60_exceptions.md R305, R306). -/
def State.sessionLegal (s : State) : Bool :=
  (s.owner != .free || (s.torndown && s.tasks.isEmpty)) &&
    (!s.tasks.any Task.releases ||
      (s.torndown &&
        (match s.tasks with
        | [.sleep _, .release] => true
        | [.release] => true
        | _ => false)))

/-! ### Runs -/

/-- The instructions of a list, one after the other, stopping at the first fault or refusal. -/
def execAll : List Instr → State → Host.Outcome State Fault Refusal
  | [], s => .next s
  | i :: is, s =>
    match exec i s with
    | .next t => execAll is t
    | .fault r => .fault r
    | .refused r => .refused r

/-- The operations a request selects: the rows of the HOP format (30_encoding.md R120). -/
def isOperation (i : Instr) : Bool :=
  match encode Config.default i with
  | .hop _ _ => true
  | _ => false

/-- The transfer operations of 43_flash_program.md R234, which touch flash only of an identified chip: FP.*, FR.READ and
the two passes. -/
def isTransfer (i : Instr) : Bool :=
  match encode Config.default i with
  | .hop code _ => code.toNat / 16 == 4 || code == 0x50#8 || code == 0x61#8 || code == 0x62#8
  | _ => false

/-- The commands a target takes from a frame (30_encoding.md R108 to R112). -/
def isCommand (i : Instr) : Bool :=
  match encode Config.default i with
  | .command _ => true
  | _ => false

/-- The commands by which the target stores a block of bytes at its pointer, as AL.WRITE_BLOCK sends them
(42_access_layer.md R215). -/
def storeInstrs (bs : List Byte) : List Instr := bs.flatMap (fun b => [.tMovA b, .tMovxSt, .tIncDptr])

end Sys2Proof.Machine
end

