-- ==== Sys2Proof/WellFormed.lean ====
section
/-! DEFINITION. The operands the spec gives each instruction, and the parameter records under which its encodings are
distinct. -/

namespace Sys2Proof

/-- Where the opcode and instruction bytes may stand (00_scope.md R8; 30_encoding.md R108, R109, R112): the debug
instruction's count bits and the burst's length bits are free, and no two commands share an opcode byte. -/
def Config.opcodesDistinct (cfg : Config) : Bool :=
  cfg.opDebugInstr &&& 3#8 == 0#8 && cfg.opBurstWrite &&& 7#8 == 0#8 && decide (cfg.burstMax ≤ 2047) &&
    (decide [cfg.opChipErase, cfg.opWrConfig, cfg.opReadStatus, cfg.opGetChipId, cfg.opDebugInstr ||| 1#8,
      cfg.opDebugInstr ||| 2#8, cfg.opDebugInstr ||| 3#8].Nodup) &&
    [cfg.opChipErase, cfg.opWrConfig, cfg.opReadStatus, cfg.opGetChipId, cfg.opDebugInstr].all
      (fun op => burstOp op != cfg.opBurstWrite) &&
    decide [cfg.iMovxSt, cfg.iMovxLd, cfg.iIncDptr].Nodup

/-- A source keeps its contract (10_state.md R47): no answer gives more bytes than were asked for. -/
def fillsFit (cfg : Config) (src : List Fill) : Bool :=
  src.all (fun f => match f with | .bytes bs => decide (bs.length ≤ cfg.blockSize) | .storageError _ => true)

/-- The operands of an instruction are those its rule gives it. -/
def wellFormed (cfg : Config) : Instr → Bool
  | .leLoad v => v != .vNone
  | .leStart => true
  | .leStop => true
  | .leAbort => true
  | .leDeinit => true
  | .leSwitch v => v != .vNone
  | .leAttach => true
  | .cpXchg f => f.encodable cfg
  | .alWrite _ _ => true
  | .alRead _ => true
  | .alWriteBlock a bs => Machine.xdataRange a bs.length
  | .alReadBlockBanked a n => Machine.flashRange a n
  | .idLookup _ => true
  | .idRead => true
  | .fpErase => true
  | .fpEnableDma => true
  | .fpConfigDma len => Machine.lengthLegal cfg len
  | .fpBurstLoad a bs => Machine.burstLegal cfg a bs
  | .fpProgram => true
  | .fpClockInit => true
  | .fpWriteBlock a bs => Machine.lengthLegal cfg bs.length && Machine.burstLegal cfg a bs
  | .frRead a n => Machine.flashRange a n
  | .toSessionStart => true
  | .toWriteAll src => fillsFit cfg src
  | .toReadAll _ => true
  | .toRestart => true
  | .toSessionEnd => true
  | .simpleWord op6 cnt _ _ _ => op6 ++ cnt != cfg.opNull
  | .null _ => true
  | .chipErase => true
  | .wrConfig _ => true
  | .readStatus => true
  | .debugInstr1 i0 => i0 != cfg.iMovxSt && i0 != cfg.iMovxLd && i0 != cfg.iIncDptr
  | .debugInstr2 i0 _ => i0 != cfg.iMovA
  | .debugInstr3 i0 _ _ => i0 != cfg.iMovDptr
  | .tMovDptr _ => true
  | .tMovA _ => true
  | .tMovxSt => true
  | .tMovxLd => true
  | .tIncDptr => true
  | .extPrefix _ _ => true
  | .extStreamWord _ _ _ _ => true
  | .extNull _ => true
  | .getChipId => true
  | .burstWrite data => decide (1 ≤ data.length) && decide (data.length ≤ cfg.burstMax)
  | .respWord _ _ => true
  | .dmaDescriptor _ _ _ _ _ => true
  | .pStopped => true
  | .atAssert => true
  | .atHold => true
  | .atHi => true
  | .atHihold => true
  | .atLo => true
  | .atLohold => true
  | .atRelease => true
  | .atSettle => true
  | .atDone => true
  | .cIdleSimple => true
  | .cIdleExt => true
  | .cFetch0 => true
  | .cDirout => true
  | .cTxset => true
  | .cTxhi => true
  | .cTxhold => true
  | .cTxlo => true
  | .cRefill => true
  | .cDirin => true
  | .cSample => true
  | .cRxhi => true
  | .cRxhold => true
  | .cRxlo => true
  | .cPush => true

end Sys2Proof
end

