-- ==== Sys2Proof/Certificates/Slice0/Obligations.lean ====
section
/-! DEFINITION. The statements about the model. Each docstring names the rules of spec/ it formalises; where a clause
rests on a choice of the model it says so and names the log entry. -/

open Sys2Proof Sys2Proof.Machine

/-! ### Encodings -/

/-- 30_encoding.md R90 to R120: for every instruction with the operands its rule gives it, and every parameter record whose
opcode bytes are distinct, the decoder gives back the instruction the encoder wrote. -/
def Obligations.DecodeEncode : Prop :=
  ∀ (cfg : Config) (i : Instr), cfg.opcodesDistinct = true → wellFormed cfg i = true → decode cfg (encode cfg i) = .ok i

/-- The other direction, for the word formats (R96, R100, R101, R103, R106): no bit of a word is dropped by decoding, but
for the bits of a response word that R103 says are ignored. -/
def Obligations.EncodeDecodeWords : Prop :=
  ∀ (cfg : Config) (w : Word),
    encode cfg (decodeSimple cfg w) = .simple w ∧
    encode cfg (decodePrefix w) = .extPrefix w ∧
    encode cfg (decodeStream w) = .extStream w ∧
    (wordByte w 0 = cfg.opNull → encode cfg (decodeStream0 cfg w) = .extStream0 w) ∧
    encode cfg (decodeResp w) = .resp (w &&& 0x800000FF#32) ∧
    (∀ (bytes : List Byte) (i : Instr), decode cfg (.desc bytes) = .ok i → encode cfg i = .desc bytes)

/-- Words of 30_encoding.md R109 to R112, 40_link_engine.md R150, R151, 41_command_protocol.md R180, R182 and codes of
10_state.md R28 and 30_encoding.md R120, each decoded in its format. -/
def Obligations.DecodedWords : Prop :=
  decode Config.default (.simple 0x5274AB00#32) = .ok (.simpleWord 0x14#6 2#2 0x74#8 0xAB#8 0#8) ∧
  decode Config.default (.simple 0x00000000#32) = .ok (.null 0#24) ∧
  decode Config.default (.extPrefix 0x00040001#32) = .ok (.extPrefix 4#16 1#16) ∧
  decode Config.default (.extStream0 0x8003AABB#32) = .ok (.extStreamWord 0x80#8 0x03#8 0xAA#8 0xBB#8) ∧
  decode Config.default (.command [0x53#8, 0x90#8, 0x62#8, 0x70#8]) = .ok (.tMovDptr 0x6270#16) ∧
  decode Config.default (.command [0x19#8, 0x22#8]) = .ok (.wrConfig 0x22#8) ∧
  decode Config.default (.resp 0x800000FF#32) = .ok (.respWord true 0xFF#8) ∧
  decode Config.default (.phase .vExt 0x27#8) = .ok .cRefill ∧
  decode Config.default (.hop 0x60#8 {}) = .ok .toSessionStart

/-- 30_encoding.md R96, R98, R100, R101, R113: the words of a frame, and the frames the encoder refuses. A simple
frame is one word, its opcode byte in bits 31:24 and zeros in the unused payload positions, and is refused unless the
payload is as long as the count bits say and one response byte is asked for; an extended frame is a prefix word and
`ceil((1 + wcount) / 4)` stream words, which hold the opcode byte and the payload, first byte in bits 31:24, and zeros
after them; it is refused where a count does not fit 16 bits, a payload follows the null opcode, or a burst has no data
byte or more than BURST_MAX (that a burst is told by its opcode bits alone is notes/assumptions/20.md; OP_NULL as a
parameter is 30.md). -/
def Obligations.FrameWords : Prop :=
  ∀ (cfg : Config) (op : Byte) (payload : List Byte) (rcount : Nat),
    (payload.length = (op &&& 3#8).toNat → rcount = 1 →
      Frame.words cfg { kind := .simple, op := op, payload := payload, rcount := rcount } =
        some [op ++ payload.getD 0 0#8 ++ payload.getD 1 0#8 ++ payload.getD 2 0#8]) ∧
    (payload.length ≠ (op &&& 3#8).toNat ∨ rcount ≠ 1 →
      Frame.words cfg { kind := .simple, op := op, payload := payload, rcount := rcount } = none) ∧
    (op ≠ cfg.opNull ∨ payload = [] →
      (op &&& 0xF8#8 ≠ cfg.opBurstWrite &&& 0xF8#8 ∨ (2 ≤ payload.length ∧ payload.length - 1 ≤ cfg.burstMax)) →
      payload.length ≤ 65535 → rcount ≤ 65535 →
      ∃ stream : List Word,
        Frame.words cfg { kind := .ext, op := op, payload := payload, rcount := rcount } =
          some ((BitVec.ofNat 16 payload.length ++ BitVec.ofNat 16 rcount) :: stream) ∧
        stream.length = (1 + payload.length + 3) / 4 ∧
        stream.flatMap (fun w => [wordByte w 0, wordByte w 1, wordByte w 2, wordByte w 3]) =
          (op :: payload) ++ List.replicate (4 * stream.length - (1 + payload.length)) 0#8) ∧
    ((op = cfg.opNull ∧ payload ≠ []) ∨ 65535 < payload.length ∨ 65535 < rcount ∨
        (op &&& 0xF8#8 = cfg.opBurstWrite &&& 0xF8#8 ∧
          (payload.length - 1 = 0 ∨ cfg.burstMax < payload.length - 1)) →
      Frame.words cfg { kind := .ext, op := op, payload := payload, rcount := rcount } = none)

/-- 30_encoding.md R106 and R107: the eight bytes of a descriptor, high byte first, the two descriptors of a program
operation as functions of its length, and their bytes with the default parameters for `L = 512`. -/
def Obligations.DescriptorBytes : Prop :=
  (∀ (src dst len : Half) (c0 c1 : Byte),
    descBytes src dst len c0 c1 =
      [src.extractLsb' 8 8, src.extractLsb' 0 8, dst.extractLsb' 8 8, dst.extractLsb' 0 8, len.extractLsb' 8 8,
        len.extractLsb' 0 8, c0, c1]) ∧
  (∀ (cfg : Config) (len : Nat),
    descA cfg len = descBytes cfg.addrDbgdata cfg.addrBuf (BitVec.ofNat 16 len) cfg.ctrlA0 cfg.ctrlA1 ∧
    descB cfg len = descBytes cfg.addrBuf cfg.addrFwdata (BitVec.ofNat 16 len) cfg.ctrlB0 cfg.ctrlB1) ∧
  descA Config.default 512 = [0x62#8, 0x60#8, 0x00#8, 0x00#8, 0x02#8, 0x00#8, 0x1F#8, 0x11#8] ∧
  descB Config.default 512 = [0x00#8, 0x00#8, 0x62#8, 0x73#8, 0x02#8, 0x00#8, 0x12#8, 0x42#8]

/-- 20_memory.md R72: the two bytes of the flash start address, that the target recovers the address from them exactly
when its low two bits are zero, and that FP called with another address is refused. (That FP.WRITE_BLOCK is refused before
its first step is notes/assumptions/15.md, that a refusal ends the enclosing operations 12.md, the task list and the result
field are 16.md's.) -/
def Obligations.FlashAddressSplit : Prop :=
  ∀ a : Nat,
    (a < 262144 →
      be16 (faddrH a) (faddrL a) = (BitVec.ofNat 18 a).extractLsb' 2 16 ∧
      faddrH a = (BitVec.ofNat 18 a).extractLsb' 10 8 ∧
      faddrL a = (BitVec.ofNat 18 a).extractLsb' 2 8 ∧
      ((be16 (faddrH a) (faddrL a)).toNat * 4 = a ↔ a % 4 = 0)) ∧
    (a % 4 ≠ 0 → ∀ (s : State) (bs : List Byte),
      exec (.fpBurstLoad a bs) s = .next { s with tasks := [], result := .refused } ∧
      exec (.fpWriteBlock a bs) s = .next { s with tasks := [], result := .refused })

/-- 20_memory.md R74: bank index, offset and window address of a flat flash address, and that with the window in the
upper half of XDATA the window address never wraps. (That it wraps for a base above 0x8000 is notes/assumptions/33.md.) -/
def Obligations.BankTranslation : Prop :=
  ∀ (cfg : Config) (a : Nat), a < 262144 →
    bankOf a = a >>> 15 ∧ offOf a = a &&& 0x7FFF ∧ bankOf a ≤ 7 ∧
    xaddrOf cfg a = cfg.bankWindowBase + BitVec.ofNat 16 (a &&& 0x7FFF) ∧
    (cfg.bankWindowBase = 0x8000#16 → (xaddrOf cfg a).toNat = 0x8000 + offOf a)

/-! ### The step -/

/-- 00_scope.md R13, 60_exceptions.md R314: each agent runs the instruction its code decodes to, and the host context goes
on with the operation in progress, the innermost first (20_memory.md R76): where it calls nothing and has no response word
to take (41_command_protocol.md R186), the step passes the point it stands at, which is `stepTask`. The counter advances
and the turn is taken first (`State.begin`); what the agent takes up is removed from where it stood. The order of turns is the
model's (notes/assumptions/3.md), so is the list of tasks of the host context (16.md), and that the DMA controller reads its
config registers (43_flash_program.md R245) and the eight bytes of its descriptor at the address they hold (30_encoding.md
R106) at its own turn (28.md). -/
def Obligations.StepRunsDecoded : Prop :=
  ∀ (s : State) (i : Instr),
    (∀ (r : Request) (rs : List Request), s.mover = .host → s.tasks = [] → s.req = r :: rs →
      decode s.cfg (.hop r.hop r.args) = .ok i → step s = exec i { s.begin with req := rs }) ∧
    (∀ (o : SubOp) (rest : List Task), s.mover = .host → s.tasks = .op o :: rest →
      step s = exec o.instr { s.begin with tasks := rest }) ∧
    (∀ (f : Frame) (rest : List Task) (w : Word) (ws : List Word), s.mover = .host → s.tasks = .await f :: rest →
      s.ws.length < f.rcount → s.rxf = w :: ws → decode s.cfg (.resp w) = .ok i →
      step s = exec i { s.begin with rxf := ws }) ∧
    (∀ (t : Task) (rest : List Task), s.mover = .host → s.tasks = t :: rest → (∀ o : SubOp, t ≠ .op o) →
      (∀ f : Frame, t = .await f → f.rcount ≤ s.ws.length ∨ s.rxf = []) →
      step s = .next (stepTask t rest s.begin)) ∧
    (∀ (w : Word) (ws : List Word), s.mover = .sequencer → s.life = .running → s.phase = .cIdle →
      s.variant = .vSimple → s.txf = w :: ws → decode s.cfg (.simple w) = .ok i →
      step s = exec i { s.begin with txf := ws }) ∧
    (∀ (w : Word) (ws : List Word), s.mover = .sequencer → s.life = .running → s.phase = .cIdle →
      s.variant = .vExt → s.txf = w :: ws → decode s.cfg (.extPrefix w) = .ok i →
      step s = exec i { s.begin with txf := ws }) ∧
    (∀ (w : Word) (ws : List Word), s.mover = .sequencer → s.life = .running → s.phase = .cFetch0 →
      s.variant = .vExt → s.txf = w :: ws → decode s.cfg (.extStream0 w) = .ok i →
      step s = exec i { s.begin with txf := ws }) ∧
    (∀ (w : Word) (ws : List Word), s.mover = .sequencer → s.life = .running → s.phase = .cRefill →
      s.variant = .vExt → s.txf = w :: ws → decode s.cfg (.extStream w) = .ok i →
      step s = exec i { s.begin with txf := ws }) ∧
    (s.mover = .sequencer → s.life = .running →
      s.txf = [] ∨ (s.phase ≠ .cIdle ∧ s.phase ≠ .cFetch0 ∧ s.phase ≠ .cRefill) →
      decode s.cfg (.phase s.variant s.phase.code) = .ok i → step s = exec i s.begin) ∧
    (s.mover = .sequencer → s.life ≠ .running → step s = exec .pStopped s.begin) ∧
    (∀ (f : List Byte) (fs : List (List Byte)), s.mover = .target → s.target.inbox = f :: fs →
      decode s.cfg (.command f) = .ok i →
      step s = exec i { s.begin with target := { s.target with inbox := fs } }) ∧
    (∀ (c : Channel) (cs : List Channel) (d : List Byte), s.mover = .dma → s.target.pending = c :: cs →
      s.target.descriptor s.cfg c = some d → decode s.cfg (.desc d) = .ok i →
      step s = exec i { s.begin with target := { s.target with pending := cs } }) ∧
    (∀ (c : Channel) (cs : List Channel) (high low : Half) (h l : Byte) (d : List Byte), s.mover = .dma →
      s.target.pending = c :: cs →
      (c = .chA ∧ high = s.cfg.addrDma0cfgh ∧ low = s.cfg.addrDma0cfgl) ∨
        (c = .chB ∧ high = s.cfg.addrDma1cfgh ∧ low = s.cfg.addrDma1cfgl) →
      s.target.xdata.read high.toNat = some h → s.target.xdata.read low.toNat = some l → d.length = 8 →
      (∀ k : Nat, k < 8 → s.target.xdata.read (h.toNat * 256 + l.toNat + k) = d[k]?) →
      decode s.cfg (.desc d) = .ok i →
      step s = exec i { s.begin with target := { s.target with pending := cs } })

/-- What a step does where no instruction is decoded: a HOP value outside the table of 30_encoding.md R120 is refused
(that the enclosing operations end with it is notes/assumptions/12.md); a frame that is no command leaves the block as it
was (93_implementation_defined.md G5); a transfer whose descriptor the model does not know leaves nothing of the target's
memories known, nor of the transfers still to be made, and no byte waiting for one (notes/assumptions/7.md, 28.md, 41.md),
and the response still to be clocked as it was (20_memory.md R81; the task list and the result field are 16.md's); and the turn of an agent that has nothing to do changes nothing but the turn
and the counter (3.md). -/
def Obligations.StepRejects : Prop :=
  ∀ (s : State) (e : Reject),
    (∀ (r : Request) (rs : List Request), s.mover = .host → s.tasks = [] → s.req = r :: rs →
      decode s.cfg (.hop r.hop r.args) = .error e →
      step s = .next { s.begin with req := rs, tasks := [], result := .refused }) ∧
    (s.mover = .sequencer → s.life = .running → decode s.cfg (.phase s.variant s.phase.code) = .error e →
      step s = .fault (.illegalPhase s.variant s.phase.code)) ∧
    (∀ (f : List Byte) (fs : List (List Byte)), s.mover = .target → s.target.inbox = f :: fs →
      decode s.cfg (.command f) = .error e →
      ∃ t : Target, step s = .next { s.begin with target := t } ∧ t.inbox = fs) ∧
    (∀ (c : Channel) (cs : List Channel), s.mover = .dma → s.target.pending = c :: cs →
      s.target.descriptor s.cfg c = none →
      ∃ t : Target, step s = .next { s.begin with target := t } ∧
        (∀ x ∈ t.pending, x = .chUnknown) ∧ t.pending.length = cs.length ∧ t.xdata = [] ∧ t.flash = [] ∧ t.dbg = [] ∧
        t.armedA = false ∧ t.armedB = false ∧ t.inDebug = s.target.inDebug ∧ t.inbox = s.target.inbox ∧
        t.resp = s.target.resp) ∧
    ((s.mover = .host ∧ s.tasks = [] ∧ s.req = []) ∨ (s.mover = .target ∧ s.target.inbox = []) ∨
        (s.mover = .dma ∧ s.target.pending = []) → step s = .next s.begin)

/-- 40_link_engine.md R150 to R158: where the sequencer takes a word from TXF, the word read in its format
(30_encoding.md R114) does what the rule of the phase says. -/
def Obligations.FetchedWordIsPhaseRule : Prop :=
  ∀ (s : State) (i : Instr), s.life = .running → decode s.cfg (.phase s.variant s.phase.code) = .ok i →
    run s.seqMove = exec i s

/-! ### Lifecycle operations -/

/-- 40_link_engine.md R133, R134, R137: LE.LOAD, LE.START and LE.DEINIT: what each writes where it is legal, and its
refusal elsewhere, of which only the result tells (60_exceptions.md R297). That an enclosing operation ends with a refusal
is notes/assumptions/12.md, the result field is 16.md's, and that LE.START with no variant goes to C_IDLE 24.md. -/
def Obligations.LoadStartDeinit : Prop :=
  ∀ (s : State) (v : Variant),
    (s.owner = .held → s.life = .unloaded → v ≠ .vNone →
      exec (.leLoad v) s = .next { s with variant := v, life := .loaded, result := .unit }) ∧
    (s.owner = .held → s.life = .loaded →
      exec .leStart s = .next { s with
        life := .running
        leDone := false
        phase := if s.variant = .vAttach then .atAssert else .cIdle
        result := .unit }) ∧
    (s.owner = .held → s.life = .loaded →
      exec .leDeinit s = .next { s with variant := .vNone, life := .unloaded, result := .unit }) ∧
    (s.life ≠ .unloaded ∨ v = .vNone ∨ s.owner = .free →
      exec (.leLoad v) s = .next { s with tasks := [], result := .refused }) ∧
    (s.life ≠ .loaded ∨ s.owner = .free →
      exec .leStart s = .next { s with tasks := [], result := .refused } ∧
      exec .leDeinit s = .next { s with tasks := [], result := .refused })

/-- 40_link_engine.md R135, R136: LE.ABORT and LE.STOP clear both queues, put the strobe low, make the data line an input
and unwrite every working register; under V_ATTACH reset is released and LE_DONE cleared. Nothing else of the block
changes. Where the sequencer does not run, or nobody owns the block, both are refused. What stands in a register that is
not written is the model's (notes/assumptions/6.md), as is the end of the operations that enclose a refused one (12.md) and the result field (16.md). -/
def Obligations.AbortAndStop : Prop :=
  ∀ s : State,
    (s.life ≠ .running ∨ s.owner = .free →
      exec .leAbort s = .next { s with tasks := [], result := .refused } ∧
      exec .leStop s = .next { s with tasks := [], result := .refused }) ∧
    (s.owner = .held → s.life = .running →
    ∃ t : State,
      exec .leAbort s = .next t ∧
      t = { s with
        txf := []
        rxf := []
        pinsOut := t.pinsOut
        pinsOe := t.pinsOe
        osr := Reg.unwritten 0#32
        osrb := Reg.unwritten 0#3
        opc := Reg.unwritten 0#8
        txseg := Reg.unwritten .segOp
        bitcnt := Reg.unwritten 0#4
        wcnt := Reg.unwritten 0#16
        rcnt := Reg.unwritten 0#16
        isr := Reg.unwritten 0#8
        nr := Reg.unwritten false
        holdcnt := Reg.unwritten 0
        falls := Reg.unwritten 0#2
        leDone := if s.variant = .vAttach then false else s.leDone
        phase := if s.variant = .vAttach then .atDone else .cIdle
        result := .unit
        target := t.target } ∧
      t.ddOut = s.ddOut ∧ t.dcOut = false ∧ t.rstnOut = (s.variant == .vAttach || s.rstnOut) ∧
      t.ddOe = false ∧ t.pinsOe.getLsbD 1 = s.pinsOe.getLsbD 1 ∧ t.pinsOe.getLsbD 2 = s.pinsOe.getLsbD 2 ∧
      exec .leStop s = .next { t with life := .loaded, phase := .pStopped })

/-- 40_link_engine.md R138: LE.SWITCH is the lifecycle operations it expands to, and nothing where the variant runs
already. R138 says that it is issued only while LE_BUSY is 0; that it is performed otherwise as well is
notes/assumptions/18.md, the result field is 16.md's. -/
def Obligations.SwitchExpands : Prop :=
  ∀ (s : State) (v : Variant), s.owner = .held → v ≠ .vNone →
    (s.life = .running → s.variant = v → exec (.leSwitch v) s = .next { s with result := .unit }) ∧
    (s.life = .running → s.variant ≠ v →
      execAll [.leStop, .leDeinit, .leLoad v, .leStart] s = exec (.leSwitch v) s) ∧
    (s.life = .loaded → execAll [.leDeinit, .leLoad v, .leStart] s = exec (.leSwitch v) s) ∧
    (s.life = .unloaded → execAll [.leLoad v, .leStart] s = exec (.leSwitch v) s) ∧
    ∃ t : State, exec (.leSwitch v) s = .next t ∧ t.life = .running ∧ t.variant = v ∧ t.owner = s.owner ∧
      t.err = s.err ∧ t.tasks = s.tasks

/-- 40_link_engine.md R139: LE.ATTACH loads and starts the attach program from any lifecycle state, and then waits for
LE_DONE, which the wait does not change (the wait is the model's task, notes/assumptions/16.md). -/
def Obligations.AttachBegins : Prop :=
  ∀ s : State, s.owner = .held →
    (s.life = .unloaded →
      exec .leAttach s = .next { s with
        variant := .vAttach
        life := .running
        leDone := false
        phase := .atAssert
        tasks := .waitDone :: s.tasks }) ∧
    (s.life = .loaded →
      exec .leAttach s = .next { s with
        variant := .vAttach
        life := .running
        leDone := false
        phase := .atAssert
        tasks := .waitDone :: s.tasks }) ∧
    (s.life = .running →
      ∃ t : State, exec .leStop s = .next t ∧
        exec .leAttach s = .next { t with
          variant := .vAttach
          life := .running
          leDone := false
          phase := .atAssert
          tasks := .waitDone :: s.tasks
          result := s.result }) ∧
    (∀ rest : List Task,
      stepTask .waitDone rest s = if s.leDone = true then { s with tasks := rest, result := .unit } else s)

/-- 10_state.md R35, 60_exceptions.md R310, 43_flash_program.md R234: while nobody owns the block every operation but
TO.SESSION_START is refused; every FP, FR and TO transfer operation is refused unless the chip is identified; and
LE.SWITCH to no variant is refused, before anything is stopped (notes/assumptions/18.md). That the enclosing operations end
with a refusal is notes/assumptions/12.md, the task list and the result field are 16.md's. -/
def Obligations.GeneralRefusals : Prop :=
  ∀ (s : State) (i : Instr), isOperation i = true →
    (s.owner = .free ∧ i ≠ .toSessionStart) ∨ (s.chipState ≠ .identified ∧ isTransfer i = true) ∨ i = .leSwitch .vNone →
    exec i s = .next { s with tasks := [], result := .refused }

/-! ### The attach program -/

/-- 10_state.md R23, R30, R31: what the block reads. A working register that a phase rule has written reads as what was
written (one that is not written reads as a free value, notes/assumptions/6.md: nothing is said of it); the data line
reads as the block's own level while its driver is on, else as the target's, and high where nobody drives; LE_BUSY. -/
def Obligations.WhatIsRead : Prop :=
  ∀ (s : State) (contract b : Bool) (ds : List Drive),
    (s.osr.written = true → s.rdOsr = s.osr.val) ∧ (s.osrb.written = true → s.rdOsrb = s.osrb.val) ∧
    (s.txseg.written = true → s.rdTxseg = s.txseg.val) ∧ (s.bitcnt.written = true → s.rdBitcnt = s.bitcnt.val) ∧
    (s.wcnt.written = true → s.rdWcnt = s.wcnt.val) ∧ (s.rcnt.written = true → s.rdRcnt = s.rcnt.val) ∧
    (s.isr.written = true → s.rdIsr = s.isr.val) ∧ (s.nr.written = true → s.rdNr = s.nr.val) ∧
    (s.holdcnt.written = true → s.rdHoldcnt = s.holdcnt.val) ∧ (s.falls.written = true → s.rdFalls = s.falls.val) ∧
    (s.ddOe = true → s.ddIn contract = s.ddOut) ∧
    (s.ddOe = false → s.dd = .level b :: ds → s.ddIn contract = b) ∧
    (s.ddOe = false → s.dd = .released :: ds → s.ddIn contract = true) ∧
    (s.variant = .vSimple ∨ s.variant = .vExt →
      (s.leBusy = true ↔ s.life = .running ∧ (s.phase ≠ .cIdle ∨ s.txf ≠ []))) ∧
    (s.variant = .vAttach → (s.leBusy = true ↔ s.life = .running ∧ s.leDone = false))

/-- 40_link_engine.md R132, R141 to R149: every phase rule of the attach program, from every state (the phase only says
that the rule is executed), with its frame: whatever is not named is unchanged. What the target takes from the pins is
`State.drive`'s (20_memory.md R79). What a register that is not written gives is notes/assumptions/6.md, what HOLDCNT 0 does
24.md. -/
def Obligations.AttachPhases : Prop :=
  ∀ s : State,
    exec .pStopped s = .next s ∧
    exec .atAssert s = .next { s.drive (s.pinsOut &&& 0b001#3) (s.pinsOe &&& 0b110#3) with
      holdcnt := Reg.of s.cfg.nRstHold
      falls := Reg.of 0#2
      phase := .atHold } ∧
    exec .atHold s = .next { s with
      holdcnt := Reg.of (s.rdHoldcnt - 1)
      phase := if s.rdHoldcnt - 1 = 0 then .atHi else s.phase } ∧
    exec .atHi s = .next { s.drive (s.pinsOut ||| 0b010#3) s.pinsOe with phase := .atHihold } ∧
    exec .atHihold s = .next { s with phase := .atLo } ∧
    exec .atLo s = .next { s.drive (s.pinsOut &&& 0b101#3) s.pinsOe with
      falls := Reg.of (s.rdFalls + 1#2)
      phase := .atLohold } ∧
    exec .atLohold s = .next { s with phase := if s.rdFalls.toNat < 2 then .atHi else .atRelease } ∧
    exec .atRelease s = .next { s.drive (s.pinsOut ||| 0b100#3) s.pinsOe with
      holdcnt := Reg.of s.cfg.nRstHold
      phase := .atSettle } ∧
    exec .atSettle s = .next { s with
      holdcnt := Reg.of (s.rdHoldcnt - 1)
      leDone := if s.rdHoldcnt - 1 = 0 then true else s.leDone
      phase := if s.rdHoldcnt - 1 = 0 then .atDone else s.phase } ∧
    exec .atDone s = .next s

/-- 40_link_engine.md R139, R140: from its entry phase with the pins at the idle levels, the attach program takes
`2 * N_RST_HOLD + 10` ticks to LE_DONE, leaves the pins at the idle levels, and the target has seen exactly two falling
strobe edges with reset low, which puts it in debug mode (20_memory.md R79). (The turns are listed, notes/assumptions/3.md.) -/
def Obligations.AttachRun : Prop :=
  ∀ (s : State) (n : Nat) (ts : List Agent),
    s.life = .running → s.variant = .vAttach → s.phase = .atAssert → s.pinsOe = 0b110#3 → s.dcOut = false →
    s.rstnOut = true → s.cfg.nRstHold = n → 1 ≤ n → s.turns = List.replicate (2 * n + 10) .sequencer ++ ts →
    ∃ t : State, core.run (2 * n + 10) s = .next t ∧ t.leDone = true ∧ t.phase = .atDone ∧ t.target.falls = 2 ∧
      t.target.inDebug = true ∧ t.pinsOe = 0b110#3 ∧ t.pinsOut = s.pinsOut ∧ t.turns = ts ∧ t.tasks = s.tasks ∧
      t.txf = s.txf ∧ t.rxf = s.rxf ∧ t.life = .running ∧ t.variant = .vAttach

/-! ### The command program -/

/-- 40_link_engine.md R150, R151, R152, R158 and 10_state.md R33: the four phases that take a word from TXF hold while it
is empty, changing nothing, and otherwise write the registers of their rule. (OP_NULL as a parameter is
notes/assumptions/30.md.) -/
def Obligations.FetchPhases : Prop :=
  ∀ s : State,
    (s.txf = [] → exec .cIdleSimple s = .next s ∧ exec .cIdleExt s = .next s ∧ exec .cFetch0 s = .next s ∧
      exec .cRefill s = .next s) ∧
    ∀ (w : Word) (rest : List Word), s.txf = w :: rest →
      (w.extractLsb' 24 8 = s.cfg.opNull →
        exec .cIdleSimple s = .next { s with
          txf := rest, osr := Reg.of w, opc := Reg.of s.cfg.opNull, wcnt := Reg.of 0#16, rcnt := Reg.of 1#16
          phase := .cDirin } ∧
        exec .cFetch0 s = .next { s with
          txf := rest, osr := Reg.of w, opc := Reg.of s.cfg.opNull, phase := .cDirin }) ∧
      (w.extractLsb' 24 8 ≠ s.cfg.opNull →
        exec .cIdleSimple s = .next { s with
          txf := rest, osr := Reg.of w, opc := Reg.of (w.extractLsb' 24 8), wcnt := Reg.of 0#16, rcnt := Reg.of 1#16
          txseg := Reg.of .segOp, bitcnt := Reg.of 6#4, phase := .cDirout } ∧
        exec .cFetch0 s = .next { s with
          txf := rest, osr := Reg.of w, opc := Reg.of (w.extractLsb' 24 8), txseg := Reg.of .segOp
          bitcnt := Reg.of 8#4, phase := .cDirout }) ∧
      exec .cIdleExt s = .next { s with
        txf := rest, wcnt := Reg.of (w.extractLsb' 16 16), rcnt := Reg.of (w.extractLsb' 0 16), phase := .cFetch0 } ∧
      exec .cRefill s = .next { s with txf := rest, osr := Reg.of w, osrb := Reg.of 4#3, phase := .cTxset }

/-- 30_encoding.md R96, R99 to R102 and 40_link_engine.md R150 to R152, R158: the registers each word format writes when
the sequencer has popped it; and 41_command_protocol.md R182, R185: a response word popped is kept, decoded, by the host
context. That a stream word acts as the first one in every phase but C_REFILL is notes/assumptions/24.md; OP_NULL as a
parameter is 30.md. -/
def Obligations.WordsTaken : Prop :=
  ∀ s : State,
    (∀ (op6 : BitVec 6) (cnt : BitVec 2) (p0 p1 p2 : Byte), op6 ++ cnt ≠ s.cfg.opNull →
      exec (.simpleWord op6 cnt p0 p1 p2) s = .next { s with
        osr := Reg.of ((op6 ++ cnt : Byte) ++ p0 ++ p1 ++ p2), opc := Reg.of (op6 ++ cnt), wcnt := Reg.of 0#16
        rcnt := Reg.of 1#16, txseg := Reg.of .segOp, bitcnt := Reg.of 6#4, phase := .cDirout }) ∧
    (∀ (op6 : BitVec 6) (cnt : BitVec 2) (p0 p1 p2 : Byte), op6 ++ cnt = s.cfg.opNull →
      exec (.simpleWord op6 cnt p0 p1 p2) s = exec (.null (p0 ++ p1 ++ p2)) s) ∧
    (∀ x : BitVec 24, exec (.null x) s = .next { s with
        osr := Reg.of (s.cfg.opNull ++ x), opc := Reg.of s.cfg.opNull, wcnt := Reg.of 0#16, rcnt := Reg.of 1#16, phase := .cDirin }) ∧
    (∀ wcount rcount : Half, exec (.extPrefix wcount rcount) s = .next { s with
        wcnt := Reg.of wcount, rcnt := Reg.of rcount, phase := .cFetch0 }) ∧
    (∀ s0 s1 s2 s3 : Byte, s.phase = .cRefill → exec (.extStreamWord s0 s1 s2 s3) s = .next { s with
        osr := Reg.of (s0 ++ s1 ++ s2 ++ s3), osrb := Reg.of 4#3, phase := .cTxset }) ∧
    (∀ s0 s1 s2 s3 : Byte, s.phase ≠ .cRefill → s0 ≠ s.cfg.opNull → exec (.extStreamWord s0 s1 s2 s3) s = .next { s with
        osr := Reg.of (s0 ++ s1 ++ s2 ++ s3), opc := Reg.of s0, txseg := Reg.of .segOp, bitcnt := Reg.of 8#4
        phase := .cDirout }) ∧
    (∀ s1 s2 s3 : Byte, s.phase ≠ .cRefill →
      exec (.extStreamWord s.cfg.opNull s1 s2 s3) s = exec (.extNull (s1 ++ s2 ++ s3)) s) ∧
    (∀ x : BitVec 24, exec (.extNull x) s = .next { s with
        osr := Reg.of (s.cfg.opNull ++ x), opc := Reg.of s.cfg.opNull, phase := .cDirin }) ∧
    (∀ (nr : Bool) (data : Byte), exec (.respWord nr data) s = .next { s with ws := s.ws ++ [⟨nr, data⟩] })

/-- 40_link_engine.md R155, R156, R162: the strobe rises with the data line as it was, in the transmitted and in the received
bit, and the hold of a transmitted bit changes no pin; nothing of the block but the strobe and the phase changes. -/
def Obligations.StrobePhases : Prop :=
  ∀ s : State,
    (∃ t : State, exec .cTxhi s = .next t ∧
      t = { s with pinsOut := s.pinsOut ||| 0b010#3, phase := .cTxhold, target := t.target } ∧
      t.dcOut = true ∧ t.ddOut = s.ddOut ∧ t.rstnOut = s.rstnOut) ∧
    exec .cTxhold s = .next { s with phase := .cTxlo } ∧
    (∃ t : State, exec .cRxhi s = .next t ∧
      t = { s with pinsOut := s.pinsOut ||| 0b010#3, phase := .cRxhold, target := t.target } ∧
      t.dcOut = true ∧ t.ddOut = s.ddOut ∧ t.rstnOut = s.rstnOut)

/-- 40_link_engine.md R153 to R156: the driver is turned on; the next bit of OSR goes on the data line, a count bit into
WCNT as well; the strobe rises; one tick of hold. What OSR, TXSEG or WCNT give where they are not written is
notes/assumptions/6.md. -/
def Obligations.SendPhases : Prop :=
  ∀ s : State,
    (∃ t : State, exec .cTxset s = .next t ∧
      t = { s.drive t.pinsOut s.pinsOe with
        wcnt := if s.rdTxseg = .segCnt then Reg.of (s.rdWcnt.extractLsb' 0 15 ++ BitVec.ofBool (s.rdOsr.getLsbD 31))
          else s.wcnt
        osr := Reg.of (s.rdOsr <<< 1)
        phase := .cTxhi } ∧
      t.ddOut = s.rdOsr.getLsbD 31 ∧ t.dcOut = s.dcOut ∧ t.rstnOut = s.rstnOut) ∧
    exec .cDirout s = .next { s.drive s.pinsOut (s.pinsOe ||| 0b001#3) with phase := .cTxset } ∧
    exec .cTxhi s = .next { s.drive (s.pinsOut ||| 0b010#3) s.pinsOe with phase := .cTxhold } ∧
    exec .cTxhold s = .next { s with phase := .cTxlo }

/-- 40_link_engine.md R157: the falling edge of a transmitted bit, and what follows the last bit of each segment. R157
gives the end of SEG_OP for V_SIMPLE and V_EXT; that every other variant does as V_EXT, and that the counters wrap, is
notes/assumptions/24.md, and what a register that is not written gives 6.md. -/
def Obligations.TransmitLow : Prop :=
  ∀ s : State,
    (s.rdBitcnt - 1#4 ≠ 0#4 →
      exec .cTxlo s = .next { s.drive (s.pinsOut &&& 0b101#3) s.pinsOe with
        bitcnt := Reg.of (s.rdBitcnt - 1#4), phase := .cTxset }) ∧
    (s.rdBitcnt = 1#4 → s.rdTxseg = .segOp → s.variant = .vSimple →
      exec .cTxlo s = .next { s.drive (s.pinsOut &&& 0b101#3) s.pinsOe with
        bitcnt := Reg.of 2#4, txseg := Reg.of .segCnt, phase := .cTxset }) ∧
    (s.rdBitcnt = 1#4 → (s.rdTxseg = .segOp ∧ s.variant ≠ .vSimple) ∨ s.rdTxseg = .segCnt →
      (s.rdWcnt = 0#16 → exec .cTxlo s = .next { s.drive (s.pinsOut &&& 0b101#3) s.pinsOe with
        bitcnt := Reg.of 0#4, osrb := Reg.of 3#3, phase := .cDirin }) ∧
      (s.rdWcnt ≠ 0#16 → exec .cTxlo s = .next { s.drive (s.pinsOut &&& 0b101#3) s.pinsOe with
        bitcnt := Reg.of 8#4, osrb := Reg.of 3#3, txseg := Reg.of .segData, phase := .cTxset })) ∧
    (s.rdBitcnt = 1#4 → s.rdTxseg = .segData →
      (s.rdWcnt - 1#16 = 0#16 → exec .cTxlo s = .next { s.drive (s.pinsOut &&& 0b101#3) s.pinsOe with
        bitcnt := Reg.of 0#4, osrb := Reg.of (s.rdOsrb - 1#3), wcnt := Reg.of 0#16, phase := .cDirin }) ∧
      (s.rdWcnt - 1#16 ≠ 0#16 → exec .cTxlo s = .next { s.drive (s.pinsOut &&& 0b101#3) s.pinsOe with
        bitcnt := Reg.of 8#4, osrb := Reg.of (s.rdOsrb - 1#3), wcnt := Reg.of (s.rdWcnt - 1#16)
        txseg := Reg.of .segData
        phase := if s.rdOsrb - 1#3 = 0#3 then .cRefill else .cTxset }))

/-- 40_link_engine.md R160 to R165: the driver is turned off; the not-ready level is sampled; each response bit is sampled
with the strobe's fall and shifted in from bit 0; the word is pushed, or the phase holds while RXF is full. What the
target signals and presents where it answers as its contract says is `State.readySignal`, `State.responseBit` and
`State.presented` (20_memory.md R79, R80; notes/assumptions/21.md, before a second or later byte 44.md). What RCNT, BITCNT, ISR or NR give where they are not
written is 6.md, that the counters wrap is 24.md. -/
def Obligations.ReceivePhases : Prop :=
  ∀ s : State,
    exec .cDirin s = .next { s.drive s.pinsOut (s.pinsOe &&& 0b110#3) with
      phase := if s.rdRcnt = 0#16 then .cIdle else .cSample } ∧
    exec .cSample s = .next { s with
      nr := Reg.of (s.ddIn s.readySignal != s.cfg.readyLevel), isr := Reg.of 0#8, bitcnt := Reg.of 8#4
      phase := .cRxhi, dd := s.dd.tail } ∧
    exec .cRxhi s = .next { s.drive (s.pinsOut ||| 0b010#3) s.pinsOe with phase := .cRxhold } ∧
    exec .cRxhold s = .next { s with phase := .cRxlo } ∧
    exec .cRxlo s = .next { { s with target := s.presented }.drive (s.pinsOut &&& 0b101#3) s.pinsOe with
      isr := Reg.of (s.rdIsr.extractLsb' 0 7 ++ BitVec.ofBool (s.ddIn s.responseBit))
      bitcnt := Reg.of (s.rdBitcnt - 1#4)
      phase := if s.rdBitcnt - 1#4 = 0#4 then .cPush else .cRxhi
      dd := s.dd.tail } ∧
    (s.cfg.rxfDepth ≤ s.rxf.length → exec .cPush s = .next s) ∧
    (s.rxf.length < s.cfg.rxfDepth → exec .cPush s = .next { s with
      rxf := s.rxf ++ [BitVec.ofBool s.rdNr ++ 0#23 ++ s.rdIsr]
      rcnt := Reg.of (s.rdRcnt - 1#16)
      phase := if s.rdRcnt - 1#16 = 0#16 then .cIdle else .cSample })

/-- 30_encoding.md R93, R96, 40_link_engine.md R150 to R160: a simple frame in TXF, other than the null frame, reaches the
target as its opcode byte and as many payload bytes as its count bits say, most significant bit first, in `35 + 32 * CNT`
ticks, after which the data line is an input again and one response byte is to be received. (The turns are listed,
notes/assumptions/3.md; what the target takes as one frame is 21.md.) -/
def Obligations.SimpleFrameSent : Prop :=
  ∀ (s : State) (w : Word) (rest : List Word) (ts : List Agent) (c : Nat),
    s.life = .running → s.variant = .vSimple → s.phase = .cIdle → s.pinsOe = 0b110#3 → s.dcOut = false →
    s.rstnOut = true → s.target.bits = [] → s.txf = w :: rest → w.extractLsb' 24 8 ≠ s.cfg.opNull →
    (w.extractLsb' 24 2).toNat = c → s.turns = List.replicate (35 + 32 * c) .sequencer ++ ts →
    ∃ t : State, core.run (35 + 32 * c) s = .next t ∧
      t.target.inbox = s.target.inbox ++
        [[w.extractLsb' 24 8, w.extractLsb' 16 8, w.extractLsb' 8 8, w.extractLsb' 0 8].take (1 + c)] ∧
      t.target.bits = [] ∧ t.phase = .cSample ∧ t.rcnt = Reg.of 1#16 ∧ t.txf = rest ∧ t.rxf = s.rxf ∧
      t.pinsOe = 0b110#3 ∧ t.dcOut = false ∧ t.rstnOut = true ∧ t.turns = ts ∧ t.tasks = s.tasks

/-- 30_encoding.md R93, R100 to R102, 40_link_engine.md R151 to R160: an extended frame whose words all stand in TXF, other
than the null frame, reaches the target as its opcode byte and its whole payload, of any length the encoder accepts, in
`4 + 32 * (1 + wcount) + ceil((1 + wcount) / 4) - 1` ticks. (The turns are listed, notes/assumptions/3.md;
what the target takes as one frame is 21.md.) -/
def Obligations.ExtendedFrameSent : Prop :=
  ∀ (s : State) (op : Byte) (payload : List Byte) (rcount n : Nat) (ws rest : List Word) (ts : List Agent),
    s.life = .running → s.variant = .vExt → s.phase = .cIdle → s.pinsOe = 0b110#3 → s.dcOut = false →
    s.rstnOut = true → s.target.bits = [] → op ≠ s.cfg.opNull → payload.length ≤ 65535 → rcount ≤ 65535 →
    Frame.words s.cfg { kind := .ext, op := op, payload := payload, rcount := rcount } = some ws →
    s.txf = ws ++ rest →
    n = 4 + 32 * (1 + payload.length) + ((1 + payload.length + 3) / 4 - 1) →
    s.turns = List.replicate n .sequencer ++ ts →
    ∃ t : State, core.run n s = .next t ∧ t.target.inbox = s.target.inbox ++ [op :: payload] ∧ t.target.bits = [] ∧
      t.phase = (if rcount = 0 then .cIdle else .cSample) ∧ t.rcnt = Reg.of (BitVec.ofNat 16 rcount) ∧ t.txf = rest ∧
      t.rxf = s.rxf ∧
      t.pinsOe = 0b110#3 ∧ t.dcOut = false ∧ t.rstnOut = true ∧ t.turns = ts ∧ t.tasks = s.tasks

/-- 30_encoding.md R103, 40_link_engine.md R161 to R165: one response byte takes 26 ticks; the word pushed holds in bit 31
whether the sample before the first pulse was the ready level, and in bits 7:0 the eight levels at the falling edges,
the first in bit 7. The levels are those the environment gives (10_state.md R23). (They are listed, notes/assumptions/4.md,
and so are the turns, 3.md.) -/
def Obligations.ResponseByteReceived : Prop :=
  ∀ (s : State) (l b7 b6 b5 b4 b3 b2 b1 b0 : Bool) (ds : List Drive) (r : Half) (ts : List Agent),
    s.life = .running → s.variant = .vSimple ∨ s.variant = .vExt → s.phase = .cSample → s.pinsOe = 0b110#3 →
    s.dcOut = false → s.rstnOut = true → s.rcnt = Reg.of r → s.rxf.length < s.cfg.rxfDepth →
    s.dd = [.level l, .level b7, .level b6, .level b5, .level b4, .level b3, .level b2, .level b1, .level b0] ++ ds →
    s.turns = List.replicate 26 .sequencer ++ ts →
    ∃ t : State, core.run 26 s = .next t ∧
      t.rxf = s.rxf ++ [BitVec.ofBool (l != s.cfg.readyLevel) ++ 0#23 ++ BitVec.ofBool b7 ++ BitVec.ofBool b6 ++
        BitVec.ofBool b5 ++ BitVec.ofBool b4 ++ BitVec.ofBool b3 ++ BitVec.ofBool b2 ++ BitVec.ofBool b1 ++
        BitVec.ofBool b0] ∧
      t.rcnt = Reg.of (r - 1#16) ∧ t.phase = (if r - 1#16 = 0#16 then .cIdle else .cSample) ∧ t.dd = ds ∧
      t.pinsOe = 0b110#3 ∧ t.pinsOut = s.pinsOut ∧ t.txf = s.txf ∧ t.turns = ts ∧ t.tasks = s.tasks ∧
      t.target = s.target

/-! ### The exchange -/

/-- 41_command_protocol.md R186, R187, R189, R180: CP.XCHG switches the variant, arms TMO, and goes on to send the words
of the frame and to receive; a frame the encoder refuses is refused. (That it goes on is the model's task list,
notes/assumptions/16.md; that a refusal ends the enclosing operations 12.md.) -/
def Obligations.ExchangeBegins : Prop :=
  ∀ (s : State) (f : Frame), s.owner = .held →
    (∀ ws : List Word, f.words s.cfg = some ws →
      ∃ t : State,
        exec (.leSwitch (match f.kind with | .simple => .vSimple | .ext => .vExt)) s = .next t ∧
        exec (.cpXchg f) s = .next { t with
          tmo := { t.tmo with ceiling := s.cfg.timeoutCeiling, expired := false }
          ws := []
          tasks := [.send ws, .await f] ++ s.tasks
          result := s.result }) ∧
    (f.words s.cfg = none → exec (.cpXchg f) s = .next { s with tasks := [], result := .refused })

/-- 41_command_protocol.md R184, R189, 60_exceptions.md R291, R300: a word is pushed where TXF is not full; where it is
full nothing is pushed, and the host waits, unless TMO has expired: then LE.ABORT and LinkTimeout, which leave both queues
empty, the pins at the levels of 10_state.md R25, the variant running at C_IDLE, ERR 1 and FP_STATE FP_FAILED (or FP_DONE).
What is still known of the target is notes/assumptions/7.md's; the tasks are 16.md's. -/
def Obligations.SendStep : Prop :=
  ∀ (s : State) (w : Word) (more : List Word) (rest : List Task),
    stepTask (.send []) rest s = { s with tasks := rest } ∧
    (s.txf.length < s.cfg.txfDepth →
      stepTask (.send (w :: more)) rest s =
        { s with txf := s.txf ++ [w], tasks := if more = [] then rest else .send more :: rest }) ∧
    (s.cfg.txfDepth ≤ s.txf.length → s.expired .tmo = false →
      stepTask (.send (w :: more)) rest s = { s with tmo := (s.askTimer .tmo).tmo }) ∧
    (s.cfg.txfDepth ≤ s.txf.length → s.expired .tmo = true → s.owner = .held → s.life = .running →
      ∃ a t : State,
        exec .leAbort (s.askTimer .tmo) = .next a ∧ stepTask (.send (w :: more)) rest s = t ∧
        t = a.raise .linkTimeout ∧ t.result = .failed .linkTimeout ∧ t.err = 1#3 ∧
        t.fpState = (if s.fpState = .done then .done else .failed) ∧ t.tasks = [] ∧ t.txf = [] ∧ t.rxf = [] ∧
        t.dcOut = false ∧ t.ddOe = false ∧ t.ddOut = s.ddOut ∧ t.rstnOut = (s.variant == .vAttach || s.rstnOut) ∧
        t.phase = (if s.variant = .vAttach then .atDone else .cIdle) ∧ t.life = .running ∧ t.variant = s.variant ∧
        t.owner = .held)

/-- 41_command_protocol.md R186, R190, R191 and 60_exceptions.md R291, R298, R300: a whole response whose first word is
ready is returned, even where TMO has expired; one that is not is discarded and a null frame of the same kind and count
follows, unless TMO has expired; a frame without response ends when LE_BUSY is 0; and every wait ends with TMO: LE.ABORT
and LinkTimeout, as in SEND. (Where the sequencer did not run, LinkTimeout is raised alone, notes/assumptions/25.md; OP_NULL
as a parameter is 30.md, what is still known of the target 7.md, the tasks are 16.md's.) -/
def Obligations.ReceiveStep : Prop :=
  ∀ (s : State) (f : Frame) (rest : List Task),
    (f.rcount = 0 → s.leBusy = false →
      stepTask (.await f) rest s = { s with tasks := rest, result := .bytes [] }) ∧
    (∀ (r : Resp) (rs : List Resp), 0 < f.rcount → s.ws = r :: rs → s.ws.length = f.rcount → r.nr = false →
      stepTask (.await f) rest s = { s with tasks := rest, result := .bytes (s.ws.map Resp.data), ws := [] }) ∧
    (∀ (r : Resp) (rs : List Resp), 0 < f.rcount → s.ws = r :: rs → s.ws.length = f.rcount → r.nr = true →
      s.expired .tmo = false →
      stepTask (.await f) rest s = { s with
        tmo := (s.askTimer .tmo).tmo
        ws := []
        tasks := .send (match f.kind with
          | .simple => [s.cfg.opNull ++ 0#24]
          | .ext => [0#16 ++ BitVec.ofNat 16 f.rcount, s.cfg.opNull ++ 0#24]) :: .await f :: rest }) ∧
    ((f.rcount = 0 ∧ s.leBusy = true) ∨ s.ws.length < f.rcount → s.expired .tmo = false →
      stepTask (.await f) rest s = { s with tmo := (s.askTimer .tmo).tmo }) ∧
    ((f.rcount = 0 ∧ s.leBusy = true) ∨ (0 < f.rcount ∧ s.ws.length < f.rcount) ∨
        (∃ (r : Resp) (rs : List Resp), 0 < f.rcount ∧ s.ws = r :: rs ∧ s.ws.length = f.rcount ∧ r.nr = true) →
      s.expired .tmo = true →
      (s.life ≠ .running → stepTask (.await f) rest s = (s.askTimer .tmo).raise .linkTimeout) ∧
      (s.owner = .held → s.life = .running →
        ∃ a t : State,
          exec .leAbort (s.askTimer .tmo) = .next a ∧ stepTask (.await f) rest s = t ∧
          t = a.raise .linkTimeout ∧ t.result = .failed .linkTimeout ∧ t.err = 1#3 ∧
          t.fpState = (if s.fpState = .done then .done else .failed) ∧ t.tasks = [] ∧ t.txf = [] ∧ t.rxf = [] ∧
          t.dcOut = false ∧ t.ddOe = false ∧ t.ddOut = s.ddOut ∧ t.rstnOut = (s.variant == .vAttach || s.rstnOut) ∧
          t.phase = (if s.variant = .vAttach then .atDone else .cIdle) ∧ t.life = .running ∧ t.variant = s.variant ∧
          t.owner = .held))

/-- 10_state.md R45: the one law of a timer (once `expired()` has answered true it answers true until the next `arm`,
whatever the environment lists, notes/assumptions/5.md), and that arming or asking one leaves the other three alone. Over
every step of the machine: a timer that has answered true does so still after the step, unless the host context armed it
in that step, at an `arm` of an operation or, for TMO, by beginning an exchange (41_command_protocol.md R189; the points of
an operation are 16.md's). -/
def Obligations.TimerLaw : Prop :=
  ∀ (s : State) (i j : TimerId) (c : Nat),
    (s.expired i = true → ({ s.askTimer i with clock := c }).expired i = true) ∧
    ((s.timer i).expired = true → s.expired i = true) ∧
    ((s.armTimer i).timer i).expired = false ∧ ((s.armTimer i).timer i).ceiling = TimerId.ceiling s.cfg i ∧
    (i ≠ j → (s.armTimer i).timer j = s.timer j ∧ (s.askTimer i).timer j = s.timer j) ∧
    (∀ t : State, step s = .next t → (s.timer i).expired = true →
      (t.timer i).expired = true ∨
      (t.timer i = { s.timer i with ceiling := TimerId.ceiling s.cfg i, expired := false } ∧ s.mover = .host ∧
        ((∃ rest : List Task, s.tasks = .arm i :: rest) ∨
          (i = .tmo ∧ ∃ (f : Frame) (rest : List Task), s.tasks = .op (.xchg f) :: rest) ∨
          (i = .tmo ∧ ∃ (r : Request) (rs : List Request) (f : Frame), s.tasks = [] ∧ s.req = r :: rs ∧
            decode s.cfg (.hop r.hop r.args) = .ok (.cpXchg f)))))

/-! ### The Access Layer -/

/-- 42_access_layer.md R210, R212 to R216: the frames of AL.WRITE, AL.READ and AL.WRITE_BLOCK, in order, each one
exchange (30_encoding.md R109); a range past 0xFFFF is refused. (The task list is the model's, notes/assumptions/16.md; that
a refusal ends the enclosing operations is 12.md.) -/
def Obligations.AccessBegins : Prop :=
  ∀ (s : State) (a : Half) (v : Byte) (bs : List Byte), s.owner = .held →
    exec (.alWrite a v) s = .next { s with
      tasks :=
        [.op (.xchg ⟨.simple, s.cfg.opDebugInstr ||| 3#8, [s.cfg.iMovDptr, a.extractLsb' 8 8, a.extractLsb' 0 8], 1⟩),
          .op (.xchg ⟨.simple, s.cfg.opDebugInstr ||| 2#8, [s.cfg.iMovA, v], 1⟩),
          .op (.xchg ⟨.simple, s.cfg.opDebugInstr ||| 1#8, [s.cfg.iMovxSt], 1⟩), .retUnit] ++ s.tasks } ∧
    exec (.alRead a) s = .next { s with
      tasks :=
        [.op (.xchg ⟨.simple, s.cfg.opDebugInstr ||| 3#8, [s.cfg.iMovDptr, a.extractLsb' 8 8, a.extractLsb' 0 8], 1⟩),
          .op (.xchg ⟨.simple, s.cfg.opDebugInstr ||| 1#8, [s.cfg.iMovxLd], 1⟩)] ++ s.tasks } ∧
    (a.toNat + bs.length ≤ 0x10000 →
      exec (.alWriteBlock a bs) s = .next { s with
        tasks :=
          .op (.xchg ⟨.simple, s.cfg.opDebugInstr ||| 3#8,
              [s.cfg.iMovDptr, a.extractLsb' 8 8, a.extractLsb' 0 8], 1⟩) ::
            (bs.flatMap (fun b =>
              [.op (.xchg ⟨.simple, s.cfg.opDebugInstr ||| 2#8, [s.cfg.iMovA, b], 1⟩),
                .op (.xchg ⟨.simple, s.cfg.opDebugInstr ||| 1#8, [s.cfg.iMovxSt], 1⟩),
                .op (.xchg ⟨.simple, s.cfg.opDebugInstr ||| 1#8, [s.cfg.iIncDptr], 1⟩)]) ++ [.retUnit]) ++ s.tasks }) ∧
    (0x10000 < a.toNat + bs.length →
      exec (.alWriteBlock a bs) s = .next { s with tasks := [], result := .refused })

/-- 44_flash_read_and_transfer.md R270, R271, R273: AL.READ_BLOCK_BANKED and FR.READ, and each pass of their loops: the
bank index goes into the bank-select register before the pointer is loaded and the first byte read, and at most the
bytes left in that bank are read before the next selection. (The passes are tasks, notes/assumptions/16.md; that a refusal
ends the enclosing operations is 12.md; the empty range at the end of flash is 19.md; that FR.READ tests neither ERR nor
FP_STATE is 31.md; that the window address wraps for a base above 0x8000 is 33.md.) -/
def Obligations.BankedRead : Prop :=
  ∀ (s : State) (a n m : Nat) (out : List Byte) (b : Byte) (bs : List Byte) (rest : List Task), s.owner = .held →
    (a + n ≤ 262144 → exec (.alReadBlockBanked a n) s = .next { s with tasks := .readSeg a n [] :: s.tasks }) ∧
    (262144 < a + n → exec (.alReadBlockBanked a n) s = .next { s with tasks := [], result := .refused }) ∧
    (s.chipState = .identified → a + n ≤ 262144 →
      exec (.frRead a n) s = .next { s with tasks := .op (.readBanked a n) :: s.tasks }) ∧
    (262144 < a + n → exec (.frRead a n) s = .next { s with tasks := [], result := .refused }) ∧
    stepTask (.readSeg a 0 out) rest s = { s with tasks := rest, result := .bytes out } ∧
    (n ≠ 0 → stepTask (.readSeg a n out) rest s = { s with
      tasks := .op (.write s.cfg.addrMemctr (BitVec.ofNat 8 (a >>> 15))) ::
        .op (.xchg ⟨.simple, s.cfg.opDebugInstr ||| 3#8,
          [s.cfg.iMovDptr, (s.cfg.bankWindowBase + BitVec.ofNat 16 (a &&& 0x7FFF)).extractLsb' 8 8,
            (s.cfg.bankWindowBase + BitVec.ofNat 16 (a &&& 0x7FFF)).extractLsb' 0 8], 1⟩) ::
        .readByte (min n (32768 - a % 32768)) a n out :: rest }) ∧
    stepTask (.readByte 0 a n out) rest s = { s with tasks := .readSeg a n out :: rest } ∧
    (m ≠ 0 → stepTask (.readByte m a n out) rest s = { s with
      tasks := .op (.xchg ⟨.simple, s.cfg.opDebugInstr ||| 1#8, [s.cfg.iMovxLd], 1⟩) :: .readGot m a n out :: rest }) ∧
    (s.result = .bytes (b :: bs) → stepTask (.readGot m a n out) rest s = { s with
      tasks := .op (.xchg ⟨.simple, s.cfg.opDebugInstr ||| 1#8, [s.cfg.iIncDptr], 1⟩) ::
        .readByte (m - 1) (a + 1) (n - 1) (out ++ [b]) :: rest })

/-! ### Identity and the program pipeline -/

/-- 43_flash_program.md R231: the chip-id lookup is a function of the id byte alone, total, and names exactly the six parts. -/
def Obligations.ChipTable : Prop :=
  ∀ b : Byte,
    chipLookup b =
      (if b = 0xA5#8 then some .cc2530 else if b = 0xB5#8 then some .cc2531 else if b = 0x95#8 then some .cc2533
      else if b = 0x43#8 then some .cc2543 else if b = 0x44#8 then some .cc2544 else if b = 0x45#8 then some .cc2545
      else none) ∧
    (chipLookup b = none ↔ b ∉ [0xA5#8, 0xB5#8, 0x95#8, 0x43#8, 0x44#8, 0x45#8])

/-- 43_flash_program.md R231, 10_state.md R35: ID.LOOKUP of the owner completes for every byte with the name of the table, or
unidentified, and writes nothing but the result. (The result field is notes/assumptions/16.md's; the refusal while nobody
owns the block is GeneralRefusals'.) -/
def Obligations.ChipLookup : Prop :=
  ∀ (s : State) (b : Byte), s.owner = .held →
    exec (.idLookup b) s = .next { s with
      result := .name
        (if b = 0xA5#8 then some .cc2530 else if b = 0xB5#8 then some .cc2531 else if b = 0x95#8 then some .cc2533
        else if b = 0x43#8 then some .cc2543 else if b = 0x44#8 then some .cc2544 else if b = 0x45#8 then some .cc2545
        else none) }

/-- 43_flash_program.md R232, R233, 60_exceptions.md R292: ID.READ is one extended exchange of two response bytes, the id
first; TO.SESSION_START records them, and fails where the id is unidentified. (The points at which it goes on are the
model's task list, notes/assumptions/16.md; that CHIP_NAME keeps what it held where the id is unidentified is 10.md.) -/
def Obligations.IdentityRead : Prop :=
  ∀ (s : State) (i r : Byte) (rest : List Task),
    (s.owner = .held → exec .idRead s = .next { s with
      tasks := [.op (.xchg ⟨.ext, s.cfg.opGetChipId, [], 2⟩), .idRet] ++ s.tasks }) ∧
    (s.result = .bytes [i, r] → stepTask .idRet rest s = { s with tasks := rest, result := .ident i r }) ∧
    (∀ n : ChipName, s.result = .ident i r → chipLookup i = some n → stepTask .identify rest s = { s with
      chipId := i, chipRev := r, chipName := some n, chipState := .identified
      tasks := if s.cfg.clockInit = true then .op .clockInit :: rest else rest
      result := .unit }) ∧
    (s.result = .ident i r → chipLookup i = none → stepTask .identify rest s = { s with
      chipId := i, chipRev := r, chipState := .unidentified
      err := 2#3
      fpState := if s.fpState = .done then .done else .failed
      tasks := []
      result := .failed .chipUnidentified })

/-- 43_flash_program.md R236, R238, R240 to R253, R255: what each operation of the program pipeline requires and begins.
(The task list is the model's, notes/assumptions/16.md. FP.ENABLE_DMA and FP.CLOCK_INIT in every state of the pipeline but
FP_FAILED, and the return of FP.CLOCK_INIT without an access where CLOCK_INIT is false, are 14.md; the checks of
FP.WRITE_BLOCK before its first step 15.md; the bound 65534 is 20.md.) -/
def Obligations.PipelineBegins : Prop :=
  ∀ (s : State) (len a : Nat) (bs : List Byte), s.owner = .held → s.chipState = .identified →
    (s.fpState = .idle → exec .fpErase s = .next { s with
      fpState := .erasing
      tasks := [.op (.xchg ⟨.simple, s.cfg.opChipErase, [], 1⟩), .arm .tmoErase, .erasePoll] ++ s.tasks }) ∧
    (s.fpState ≠ .failed → exec .fpEnableDma s = .next { s with
      tasks := [.op (.xchg ⟨.simple, s.cfg.opWrConfig, [s.cfg.configEnableDma], 1⟩), .dmaEnabled] ++ s.tasks }) ∧
    (s.fpState = .configDma → 1 ≤ len → len ≤ s.cfg.burstMax → len ≤ 65534 → len % 4 = 0 →
      exec (.fpConfigDma len) s = .next { s with
        tasks := (if s.dmaEnabled = true then [] else [.op .enableDma]) ++
          [.op (.writeBlock s.cfg.addrDescA (descA s.cfg len)), .op (.writeBlock s.cfg.addrDescB (descB s.cfg len)),
            .op (.write s.cfg.addrDma0cfgh (s.cfg.addrDescA.extractLsb' 8 8)),
            .op (.write s.cfg.addrDma0cfgl (s.cfg.addrDescA.extractLsb' 0 8)),
            .op (.write s.cfg.addrDma1cfgh (s.cfg.addrDescB.extractLsb' 8 8)),
            .op (.write s.cfg.addrDma1cfgl (s.cfg.addrDescB.extractLsb' 0 8)), .configDone len] ++ s.tasks }) ∧
    (s.fpState = .burst → bs.length = s.fpLen.toNat → a % 4 = 0 → a + bs.length ≤ 262144 → 1 ≤ bs.length →
      bs.length ≤ s.cfg.burstMax →
      exec (.fpBurstLoad a bs) s = .next { s with
        tasks := [.op (.write s.cfg.addrFaddrh (BitVec.ofNat 8 (a / 1024))),
          .op (.write s.cfg.addrFaddrl (BitVec.ofNat 8 (a / 4))), .op (.write s.cfg.addrDmaarm s.cfg.armA),
          .op (.xchg ⟨.ext, s.cfg.opBurstWrite ||| BitVec.ofNat 8 (bs.length / 256),
            BitVec.ofNat 8 bs.length :: bs, 1⟩), .burstDone] ++ s.tasks }) ∧
    (s.fpState = .programming → exec .fpProgram s = .next { s with
      tasks := [.op (.write s.cfg.addrDmaarm s.cfg.armB), .op (.write s.cfg.addrFctl s.cfg.fctlWriteValue),
        .arm .tmoProg, .progPoll] ++ s.tasks }) ∧
    (s.fpState ≠ .failed → s.cfg.clockInit = true → exec .fpClockInit s = .next { s with
      tasks := [.op (.write s.cfg.addrClkconcmd s.cfg.clkCmdValue), .arm .tmoLink2, .clockPoll] ++ s.tasks }) ∧
    (s.fpState ≠ .failed → s.cfg.clockInit = false → exec .fpClockInit s = .next { s with result := .unit }) ∧
    (s.fpState = .configDma → 1 ≤ bs.length → bs.length ≤ s.cfg.burstMax → bs.length ≤ 65534 → bs.length % 4 = 0 →
      a % 4 = 0 → a + bs.length ≤ 262144 →
      exec (.fpWriteBlock a bs) s = .next { s with
        tasks := [.op (.configDma bs.length), .op (.burstLoad a bs), .op .program] ++ s.tasks })

/-- 43_flash_program.md R260, 44_flash_read_and_transfer.md R276, R280, 60_exceptions.md R297 and 95_test_vectors.md 2.9: an
operation of the pipeline in a state the table has no row for, every one of them in FP_FAILED, a misaligned address, a
range past the flash, a burst of another length than FP_LEN and a length that is no multiple of 4 or out of bounds are
refused. A pass is refused after a failure, while another is recorded, and in the wrong state of the pipeline. (That
FP.WRITE_BLOCK is refused before its first step is notes/assumptions/15.md, the bound 65534 20.md, that a refusal ends the
enclosing operations 12.md, the task list and the result field are 16.md's.) -/
def Obligations.PipelineRefusals : Prop :=
  ∀ (s : State) (len a : Nat) (bs : List Byte) (src : List Fill) (snk : List Ack),
    (s.fpState ≠ .idle → exec .fpErase s = .next { s with tasks := [], result := .refused }) ∧
    (s.fpState ≠ .configDma → exec (.fpConfigDma len) s = .next { s with tasks := [], result := .refused }) ∧
    (len = 0 ∨ s.cfg.burstMax < len ∨ 65534 < len ∨ len % 4 ≠ 0 →
      exec (.fpConfigDma len) s = .next { s with tasks := [], result := .refused }) ∧
    (s.fpState ≠ .burst → exec (.fpBurstLoad a bs) s = .next { s with tasks := [], result := .refused }) ∧
    (a % 4 ≠ 0 ∨ 262144 < a + bs.length ∨ bs.length ≠ s.fpLen.toNat →
      exec (.fpBurstLoad a bs) s = .next { s with tasks := [], result := .refused }) ∧
    (s.fpState ≠ .programming → exec .fpProgram s = .next { s with tasks := [], result := .refused }) ∧
    (s.fpState = .failed →
      exec .fpEnableDma s = .next { s with tasks := [], result := .refused } ∧
      exec .fpClockInit s = .next { s with tasks := [], result := .refused }) ∧
    (s.fpState ≠ .configDma ∨ bs.length = 0 ∨ s.cfg.burstMax < bs.length ∨ 65534 < bs.length ∨ bs.length % 4 ≠ 0 ∨
        a % 4 ≠ 0 ∨ 262144 < a + bs.length →
      exec (.fpWriteBlock a bs) s = .next { s with tasks := [], result := .refused }) ∧
    (s.err ≠ 0#3 ∨ s.toMode ≠ .none ∨ s.fpState ≠ .idle →
      exec (.toWriteAll src) s = .next { s with tasks := [], result := .refused }) ∧
    (s.err ≠ 0#3 ∨ s.toMode ≠ .none ∨ (s.fpState ≠ .idle ∧ s.fpState ≠ .done) →
      exec (.toReadAll snk) s = .next { s with tasks := [], result := .refused })

/-- 43_flash_program.md R236, R239, R240, R242, R246, R253, R260, 42_access_layer.md R212, R215: how the operations of the
pipeline and of the Access Layer go on and end: the named timer is armed with its ceiling; a poll is one exchange or one
read; the busy flag first, then the ceiling (60_exceptions.md R298); and the state of the pipeline that follows. (The
tasks are the model's, notes/assumptions/16.md.) -/
def Obligations.PipelineEnds : Prop :=
  ∀ (s : State) (len : Nat) (rest : List Task),
    stepTask (.arm .tmoErase) rest s = { s with
      tmoErase := { s.tmoErase with ceiling := s.cfg.eraseCeiling, expired := false }, tasks := rest } ∧
    stepTask (.arm .tmoProg) rest s = { s with
      tmoProg := { s.tmoProg with ceiling := s.cfg.programCeiling, expired := false }, tasks := rest } ∧
    stepTask (.arm .tmoLink2) rest s = { s with
      tmoLink2 := { s.tmoLink2 with ceiling := s.cfg.timeoutCeiling, expired := false }, tasks := rest } ∧
    stepTask .retUnit rest s = { s with tasks := rest, result := .unit } ∧
    stepTask .erasePoll rest s = { s with
      tasks := .op (.xchg ⟨.simple, s.cfg.opReadStatus, [], 1⟩) :: .eraseTest :: rest } ∧
    stepTask .progPoll rest s = { s with tasks := .op (.read s.cfg.addrFctl) :: .progTest :: rest } ∧
    stepTask .clockPoll rest s = { s with tasks := .op (.read s.cfg.addrClkconsta) :: .clockTest :: rest } ∧
    stepTask .dmaEnabled rest s = { s with tasks := rest, dmaEnabled := true, result := .unit } ∧
    stepTask (.configDone len) rest s = { s with
      tasks := rest, fpLen := BitVec.ofNat 16 len, fpState := .burst, result := .unit } ∧
    stepTask .burstDone rest s = { s with tasks := rest, fpState := .programming, result := .unit } ∧
    ∀ (b : Byte) (bs : List Byte), s.result = .bytes (b :: bs) →
      (b &&& s.cfg.statusEraseBusy = 0#8 → stepTask .eraseTest rest s = { s with
        tasks := rest, fpState := .configDma, result := .unit }) ∧
      (b &&& s.cfg.statusEraseBusy ≠ 0#8 → s.expired .tmoErase = false → stepTask .eraseTest rest s = { s with
        tmoErase := (s.askTimer .tmoErase).tmoErase
        tasks := .sleep s.cfg.pollSleep :: .erasePoll :: rest }) ∧
      (b &&& s.cfg.statusEraseBusy ≠ 0#8 → s.expired .tmoErase = true →
        stepTask .eraseTest rest s = (s.askTimer .tmoErase).raise .eraseTimeout) ∧
      (b &&& s.cfg.fctlBusy = 0#8 → stepTask .progTest rest s = { s with
        tasks := rest, fpState := .configDma, result := .unit }) ∧
      (b &&& s.cfg.fctlBusy ≠ 0#8 → s.expired .tmoProg = false → stepTask .progTest rest s = { s with
        tmoProg := (s.askTimer .tmoProg).tmoProg
        tasks := .progPoll :: rest }) ∧
      (b &&& s.cfg.fctlBusy ≠ 0#8 → s.expired .tmoProg = true →
        stepTask .progTest rest s = (s.askTimer .tmoProg).raise .programTimeout) ∧
      (b = s.cfg.clkStaValue → stepTask .clockTest rest s = { s with tasks := rest, result := .unit }) ∧
      (b ≠ s.cfg.clkStaValue → s.expired .tmoLink2 = false → stepTask .clockTest rest s = { s with
        tmoLink2 := (s.askTimer .tmoLink2).tmoLink2
        tasks := .clockPoll :: rest }) ∧
      (b ≠ s.cfg.clkStaValue → s.expired .tmoLink2 = true →
        stepTask .clockTest rest s = (s.askTimer .tmoLink2).raise .linkTimeout)

/-! ### The Transfer Orchestrator -/

/-- 43_flash_program.md R233, 44_flash_read_and_transfer.md R274: TO.SESSION_START takes ownership and sets the session up,
then attaches, reads the identity and records it; with an owner, or a configuration that 20_memory.md R70 or R71 forbids,
it is refused; and which configurations those are. (The task list is notes/assumptions/16.md; that a refusal ends the
enclosing operations is 12.md; that a block freed by TO.SESSION_END after a failure accepts it is 29.md; BLOCK_SIZE 0 is
20.md; that a region past 0xFFFF is compared without wrapping and accepted is 33.md.) -/
def Obligations.SessionStart : Prop :=
  ∀ s : State,
    (s.owner = .free → configLegal s.cfg = true → exec .toSessionStart s = .next { s with
      owner := .held, err := 0#3, eoi := false, chipState := .unset, dmaEnabled := false, fpState := .idle
      toMode := .none, toBlk := 0#19, toOff := 0#19, toNblk := BitVec.ofNat 19 (262144 / s.cfg.blockSize)
      tasks := [.op .attach, .op .idRead, .identify] ++ s.tasks }) ∧
    (s.owner = .held → exec .toSessionStart s = .next { s with tasks := [], result := .refused }) ∧
    (configLegal s.cfg = false → exec .toSessionStart s = .next { s with tasks := [], result := .refused }) ∧
    (configLegal s.cfg = true ↔
      (262144 % s.cfg.blockSize = 0 ∧ s.cfg.blockSize % 4 = 0 ∧ 0 < s.cfg.blockSize ∧
        s.cfg.blockSize ≤ s.cfg.burstMax ∧ s.cfg.blockSize ≤ 65534) ∧
      (s.cfg.addrBuf.toNat + s.cfg.blockSize ≤ s.cfg.addrDescA.toNat ∨
        s.cfg.addrDescA.toNat + 8 ≤ s.cfg.addrBuf.toNat) ∧
      (s.cfg.addrBuf.toNat + s.cfg.blockSize ≤ s.cfg.addrDescB.toNat ∨
        s.cfg.addrDescB.toNat + 8 ≤ s.cfg.addrBuf.toNat) ∧
      (s.cfg.addrDescA.toNat + 8 ≤ s.cfg.addrDescB.toNat ∨ s.cfg.addrDescB.toNat + 8 ≤ s.cfg.addrDescA.toNat) ∧
      ∀ r ∈ [s.cfg.addrDbgdata, s.cfg.addrFctl, s.cfg.addrFaddrl, s.cfg.addrFaddrh, s.cfg.addrFwdata,
          s.cfg.addrClkconsta, s.cfg.addrClkconcmd, s.cfg.addrMemctr, s.cfg.addrDma1cfgl, s.cfg.addrDma1cfgh,
          s.cfg.addrDma0cfgl, s.cfg.addrDma0cfgh, s.cfg.addrDmaarm],
        (r.toNat < s.cfg.addrBuf.toNat ∨ s.cfg.addrBuf.toNat + s.cfg.blockSize ≤ r.toNat) ∧
        (r.toNat < s.cfg.addrDescA.toNat ∨ s.cfg.addrDescA.toNat + 8 ≤ r.toNat) ∧
        (r.toNat < s.cfg.addrDescB.toNat ∨ s.cfg.addrDescB.toNat + 8 ≤ r.toNat))

/-- 44_flash_read_and_transfer.md R276 to R279: the write pass: what it requires and begins; the source's answer decides
whether a block is written, padded with 0xFF, and whether it is the last; a StorageError ends the pass; the end of the
pass. A source that lists no answer is exhausted (notes/assumptions/13.md); the tasks of the pass are 16.md's. -/
def Obligations.WritePass : Prop :=
  ∀ (s : State) (src : List Fill) (got : List Byte) (d : Nat) (rest : List Task),
    (s.owner = .held → s.chipState = .identified → s.err = 0#3 → s.toMode = .none → s.fpState = .idle →
      exec (.toWriteAll src) s = .next { s with
        toMode := .write, toBlk := 0#19, toOff := 0#19, eoi := false
        tasks := [.op .erase, .writeLoop src] ++ s.tasks }) ∧
    (s.toBlk.toNat < s.toNblk.toNat → s.eoi = false → 0 < got.length → got.length ≤ s.cfg.blockSize →
      stepTask (.writeLoop (.bytes got :: src)) rest s = { s with
        eoi := decide (got.length < s.cfg.blockSize)
        buf := got ++ List.replicate (s.cfg.blockSize - got.length) 0xFF#8
        tasks := .op (.programBlock s.toOff.toNat (got ++ List.replicate (s.cfg.blockSize - got.length) 0xFF#8)) ::
          .blockDone :: .writeLoop src :: rest }) ∧
    (s.toBlk.toNat < s.toNblk.toNat → s.eoi = false →
      stepTask (.writeLoop (.bytes [] :: src)) rest s = { s with eoi := true, tasks := .writeEnd :: rest } ∧
      stepTask (.writeLoop []) rest s = { s with eoi := true, tasks := .writeEnd :: rest }) ∧
    (s.toBlk.toNat < s.toNblk.toNat → s.eoi = false →
      stepTask (.writeLoop (.storageError d :: src)) rest s = s.raise (.storageError d)) ∧
    (s.toNblk.toNat ≤ s.toBlk.toNat ∨ s.eoi = true →
      stepTask (.writeLoop src) rest s = { s with tasks := .writeEnd :: rest }) ∧
    stepTask .blockDone rest s = { s with
      tasks := rest, toBlk := s.toBlk + 1#19, toOff := s.toOff + BitVec.ofNat 19 s.cfg.blockSize } ∧
    stepTask .writeEnd rest s = { s with
      tasks := rest, fpState := .done, toMode := .none, result := .doneWrite s.toBlk.toNat s.eoi }

/-- 44_flash_read_and_transfer.md R280: the read pass: what it requires and begins, one block, and its end. A sink that
lists no answer accepts (notes/assumptions/13.md); the tasks of the pass are 16.md's, the record of the blocks appended is
27.md's. -/
def Obligations.ReadPass : Prop :=
  ∀ (s : State) (snk : List Ack) (bs : List Byte) (d : Nat) (rest : List Task),
    (s.owner = .held → s.chipState = .identified → s.err = 0#3 → s.toMode = .none →
      s.fpState = .idle ∨ s.fpState = .done →
      exec (.toReadAll snk) s = .next { s with
        toMode := .read, toBlk := 0#19, toOff := 0#19, sunk := [], tasks := .readLoop snk :: s.tasks }) ∧
    (s.toBlk.toNat < s.toNblk.toNat → stepTask (.readLoop snk) rest s = { s with
      tasks := .op (.flashRead s.toOff.toNat s.cfg.blockSize) :: .appendBlock snk :: rest }) ∧
    (s.toNblk.toNat ≤ s.toBlk.toNat → stepTask (.readLoop snk) rest s = { s with
      tasks := rest, toMode := .none, result := .doneRead s.toBlk.toNat }) ∧
    (s.result = .bytes bs → stepTask (.appendBlock (.accepted :: snk)) rest s = { s with
      buf := bs, sunk := s.sunk ++ [bs], toBlk := s.toBlk + 1#19
      toOff := s.toOff + BitVec.ofNat 19 s.cfg.blockSize, tasks := .readLoop snk :: rest }) ∧
    (s.result = .bytes bs → stepTask (.appendBlock []) rest s = { s with
      buf := bs, sunk := s.sunk ++ [bs], toBlk := s.toBlk + 1#19
      toOff := s.toOff + BitVec.ofNat 19 s.cfg.blockSize, tasks := .readLoop [] :: rest }) ∧
    (s.result = .bytes bs → stepTask (.appendBlock (.storageError d :: snk)) rest s =
      { s with buf := bs }.raise (.storageError d))

/-- 60_exceptions.md R305, R306: TO.SESSION_END tears the session down and keeps ERR; TO.RESTART does the same, clears
ERR, sleeps and then frees the block. What the teardown does to the Link Engine is LE.STOP and LE.DEINIT. That CHIP_ID,
CHIP_REV, CHIP_NAME, FP_LEN and BUF, which 10_state.md R49 calls unspecified afterwards, keep what they held, and that what
is known of the target's registers stays known, is notes/assumptions/10.md; the two points at which TO.RESTART goes on, the
owner still held between them, are 16.md's. -/
def Obligations.SessionEndAndRestart : Prop :=
  ∀ (s : State) (d : Nat) (rest : List Task), s.owner = .held →
    ∃ u : State,
      (s.life = .unloaded → u = s) ∧
      (s.life = .loaded → exec .leDeinit s = .next { u with result := .unit }) ∧
      (s.life = .running → execAll [.leStop, .leDeinit] s = .next { u with result := .unit }) ∧
      exec .toSessionEnd s = .next { u with
        owner := .free, chipState := .unset, dmaEnabled := false, fpState := .idle, eoi := false, toMode := .none
        toNblk := 0#19, toBlk := 0#19, toOff := 0#19, result := .unit } ∧
      exec .toRestart s = .next { u with
        err := 0#3, chipState := .unset, dmaEnabled := false, fpState := .idle, eoi := false, toMode := .none
        toNblk := 0#19, toBlk := 0#19, toOff := 0#19
        tasks := [.sleep s.cfg.settleDelay, .release] ++ s.tasks } ∧
      u.life = .unloaded ∧ u.result = s.result ∧ u.tasks = s.tasks ∧
      stepTask (.sleep d) rest s = { s with tasks := rest } ∧
      stepTask .release rest s = { s with tasks := rest, owner := .free, result := .unit }

/-- 60_exceptions.md R290, R300: raising a failure writes ERR, moves FP_STATE to FP_FAILED unless it is FP_DONE, ends the
operation in progress and every enclosing one with that failure, and changes nothing else of the block. (What is still
known of the target is notes/assumptions/7.md's, the task list and the result field are 16.md's.) -/
def Obligations.FailureEntry : Prop :=
  ∀ (s : State) (f : Failure),
    s.raise f = { s with
      err := (match f with
        | .linkTimeout => 1#3
        | .chipUnidentified => 2#3
        | .eraseTimeout => 3#3
        | .programTimeout => 4#3
        | .storageError _ => 6#3)
      fpState := if s.fpState = .done then .done else .failed
      tasks := []
      result := .failed f
      target := (s.raise f).target }

/-! ### The target's commands -/

/-- 30_encoding.md R109, 42_access_layer.md R211, R214, R216, R217, 20_memory.md R74, R80: what the five instructions do to a
target in debug mode: pointer, accumulator and store, and the response byte of the load is the byte loaded; the other
response bytes are free values, as is the pointer past 0xFFFF (20_memory.md R85; notes/assumptions/7.md). The load finds, in
the bank window, the flash byte at that place of the bank which the bank-select register holds, and outside the window and
the thirteen registers the byte stored; what it finds elsewhere, or where that byte is not known, is a free value (7.md). That
a load changes nothing of the target but accumulator and response is the model's choice at every address (the reads in 7.md):
20_memory.md R69 only assumes it of the polled registers and the bank window, and says that it need not be exact
(93_implementation_defined.md G23). Nothing of the block changes. A store in the debug-data buffer while channel A is not known to be armed and enabled is StoreFrame's. That a
store in the bank window is a store like another is 32.md, which byte a load finds at an address both in the window and a
register's 33.md, that an unclocked rest of an earlier response is dropped 37.md, and which register is meant where two
parameters agree 39.md. -/
def Obligations.EmulatedInstructions : Prop :=
  ∀ (s : State) (a : Half) (v : Byte), s.target.inDebug = true →
    (∃ r : Byte, exec (.tMovDptr a) s =
      .next { s with target := { s.target with dptr := a, resp := byteBits r } }) ∧
    (∃ r : Byte, exec (.tMovA v) s = .next { s with target := { s.target with acc := v, resp := byteBits r } }) ∧
    (∃ (r : Byte) (t : Target), exec .tMovxSt s = .next { s with target := t } ∧ t.resp = byteBits r ∧
      (s.target.dptr ≠ s.cfg.addrDbgdata ∨
          (s.target.armedA = true ∧ s.target.config = s.cfg.configEnableDma) →
        t.xdata = s.target.xdata.write s.target.dptr.toNat s.target.acc) ∧
      t.dptr = s.target.dptr ∧ t.acc = s.target.acc ∧ t.config = s.target.config) ∧
    (∃ b : Byte, exec .tMovxLd s = .next { s with target := { s.target with acc := b, resp := byteBits b } } ∧
      (∀ m c : Byte, s.cfg.bankWindowBase.toNat ≤ s.target.dptr.toNat →
        s.target.dptr.toNat < s.cfg.bankWindowBase.toNat + 32768 →
        s.target.xdata.read s.cfg.addrMemctr.toNat = some m →
        s.target.flash.read (m.toNat * 32768 + (s.target.dptr.toNat - s.cfg.bankWindowBase.toNat)) = some c → b = c) ∧
      (∀ c : Byte, s.target.dptr.toNat < s.cfg.bankWindowBase.toNat ∨
          s.cfg.bankWindowBase.toNat + 32768 ≤ s.target.dptr.toNat →
        s.target.dptr ∉ [s.cfg.addrDbgdata, s.cfg.addrFctl, s.cfg.addrFaddrl, s.cfg.addrFaddrh, s.cfg.addrFwdata,
          s.cfg.addrClkconsta, s.cfg.addrClkconcmd, s.cfg.addrMemctr, s.cfg.addrDma1cfgl, s.cfg.addrDma1cfgh,
          s.cfg.addrDma0cfgl, s.cfg.addrDma0cfgh, s.cfg.addrDmaarm] →
        s.target.xdata.read s.target.dptr.toNat = some c → b = c)) ∧
    (∃ (r : Byte) (p : Half), exec .tIncDptr s =
      .next { s with target := { s.target with dptr := p, resp := byteBits r } } ∧
      (s.target.dptr ≠ 0xFFFF#16 → p = s.target.dptr + 1#16))

/-- 20_memory.md R69, 42_access_layer.md R211, 43_flash_program.md R252, 70_reset_and_hazards.md R343: the whole effect of a
store: the byte at the pointer reads as the accumulator and every other byte of XDATA as before; an arm value arms its
channel; the write trigger of the flash controller starts channel B where it is armed; a byte stored in the debug-data
buffer is taken by channel A while it is armed; and nothing else of the target or the block changes. (The trigger with
channel B not known to be armed, the debug-data buffer with A not known to be, and the free response byte are
notes/assumptions/7.md and 28.md. Any other value in the arm register or the flash controller and any in the flash
write-data register, and that a store in the bank window is a store like another, are 32.md; that an unclocked rest of an
earlier response is dropped is 37.md; which register is meant where two parameters agree 39.md; that a second trigger is a
second transfer 40.md, and that arming one channel leaves the other as it was 42.md.) -/
def Obligations.StoreFrame : Prop :=
  ∀ s : State, s.target.inDebug = true →
    (s.target.xdata.write s.target.dptr.toNat s.target.acc).read s.target.dptr.toNat = some s.target.acc ∧
    (∀ k : Nat, k ≠ s.target.dptr.toNat →
      (s.target.xdata.write s.target.dptr.toNat s.target.acc).read k = s.target.xdata.read k) ∧
    ∃ (r : Byte) (t : Target),
      t = { s.target with
        xdata := s.target.xdata.write s.target.dptr.toNat s.target.acc
        resp := byteBits r } ∧
      (s.target.dptr = s.cfg.addrDmaarm →
        (s.target.acc = s.cfg.armA ∨ s.target.acc = s.cfg.armB →
          exec .tMovxSt s = .next { s with target := { t with
            armedA := s.target.armedA || s.target.acc == s.cfg.armA
            armedB := s.target.armedB || s.target.acc == s.cfg.armB } }) ∧
        (s.target.acc ≠ s.cfg.armA → s.target.acc ≠ s.cfg.armB →
          exec .tMovxSt s = .next { s with target := { t with armedA := false, armedB := false } })) ∧
      (s.target.dptr ≠ s.cfg.addrDmaarm → s.target.dptr = s.cfg.addrFctl →
        (s.target.acc = s.cfg.fctlWriteValue → s.target.armedB = true → s.target.config = s.cfg.configEnableDma →
          exec .tMovxSt s = .next { s with target := { t with pending := s.target.pending ++ [.chB] } }) ∧
        (s.target.acc ≠ s.cfg.fctlWriteValue ∨ s.target.armedB = false ∨ s.target.config ≠ s.cfg.configEnableDma →
          exec .tMovxSt s = .next { s with target := { t with flash := [], erased := false, armedB := false } })) ∧
      (s.target.dptr ≠ s.cfg.addrDmaarm → s.target.dptr ≠ s.cfg.addrFctl → s.target.dptr = s.cfg.addrFwdata →
        exec .tMovxSt s = .next { s with target := { t with flash := [], erased := false, armedB := false } }) ∧
      (s.target.dptr ≠ s.cfg.addrDmaarm → s.target.dptr ≠ s.cfg.addrFctl → s.target.dptr ≠ s.cfg.addrFwdata →
        (s.target.dptr = s.cfg.addrDbgdata → s.target.armedA = true → s.target.config = s.cfg.configEnableDma →
          exec .tMovxSt s = .next { s with target := { t with
            dbg := s.target.dbg ++ [s.target.acc]
            pending := if .chA ∈ s.target.pending then s.target.pending else s.target.pending ++ [.chA] } }) ∧
        (s.target.dptr = s.cfg.addrDbgdata →
          (s.target.armedA = false ∨ s.target.config ≠ s.cfg.configEnableDma) →
          exec .tMovxSt s = .next { s with target := { t with xdata := [] } }) ∧
        (s.target.dptr ≠ s.cfg.addrDbgdata → exec .tMovxSt s = .next { s with target := t }))

/-- 43_flash_program.md R238, R240, R249, 30_encoding.md R108, R110 to R112, 20_memory.md R69: the other commands on a
target in debug mode. Response bytes are free values; a burst's bytes wait behind those channel A has not yet moved
(notes/assumptions/28.md); a debug instruction other than the five leaves nothing of the target known, and so does any
command on a target that is not in debug mode (notes/assumptions/7.md). That reading the debug status byte, or the two
identity bytes, changes nothing of the target but the response is the model's choice as well (the reads in 7.md):
20_memory.md R69 only assumes it of the status byte, and says that it need not be exact (93_implementation_defined.md G23).
That the erase is complete in the step of its
command is 35.md, and that an unclocked rest of an earlier response is dropped 37.md. -/
def Obligations.OtherCommands : Prop :=
  ∀ (s : State) (c i0 i1 i2 : Byte) (data : List Byte),
    (s.target.inDebug = true →
      (∃ r : Byte, exec .chipErase s =
        .next { s with target := { s.target with flash := [], erased := true, resp := byteBits r } }) ∧
      (∃ r : Byte, exec (.wrConfig c) s = .next { s with target := { s.target with config := c, resp := byteBits r } }) ∧
      (∃ r : Byte, exec .readStatus s = .next { s with target := { s.target with resp := byteBits r } }) ∧
      (∃ r1 r2 : Byte, exec .getChipId s =
        .next { s with target := { s.target with resp := byteBits r1 ++ byteBits r2 } }) ∧
      (s.target.armedA = true → s.target.config = s.cfg.configEnableDma →
        ∃ r : Byte, exec (.burstWrite data) s = .next { s with
          target := { s.target with
            dbg := s.target.dbg ++ data
            pending := if .chA ∈ s.target.pending then s.target.pending else s.target.pending ++ [.chA]
            resp := byteBits r } }) ∧
      (s.target.armedA = false ∨ s.target.config ≠ s.cfg.configEnableDma →
        ∃ r : Byte, exec (.burstWrite data) s = .next { s with
          target := { s.target with xdata := [], resp := byteBits r } }) ∧
      (i0 ≠ s.cfg.iMovxSt → i0 ≠ s.cfg.iMovxLd → i0 ≠ s.cfg.iIncDptr →
        ∃ r : Byte, exec (.debugInstr1 i0) s = .next { s with
          target := { s.target.forget s.clock with resp := byteBits r } }) ∧
      (i0 ≠ s.cfg.iMovA → ∃ r : Byte, exec (.debugInstr2 i0 i1) s = .next { s with
          target := { s.target.forget s.clock with resp := byteBits r } }) ∧
      (i0 ≠ s.cfg.iMovDptr → ∃ r : Byte, exec (.debugInstr3 i0 i1 i2) s = .next { s with
          target := { s.target.forget s.clock with resp := byteBits r } })) ∧
    (∀ i : Instr, isCommand i = true → s.target.inDebug = false →
      exec i s = .next { s with target := s.target.unknownCommand s.clock })

/-- 20_memory.md R81, 30_encoding.md R106, R107: the transfers of the two channels: from the debug-data buffer to the
staging buffer, and from the staging buffer to flash at the start address that FADDRH and FADDRL hold (20_memory.md R72),
each byte in order; every other byte of both memories stays. That a channel is told by the two ends of its descriptor and is disarmed by its transfer is
notes/assumptions/28.md; that a transfer past the last flash address (20_memory.md R60) leaves nothing of flash known is
34.md, and one to a start address that is not known 7.md. That registers in a transfer's range are bytes like others, and
that what channel A stores there is what they then hold (the bank select among them, which so remaps the window), is 36.md, that all sixteen length bits are a plain length 38.md, and that the descriptors and the registers keep what they hold
43.md. -/
def Obligations.DmaTransfers : Prop :=
  ∀ (s : State) (src dst len : Half) (c0 c1 : Byte), s.target.inDebug = true →
    (src = s.cfg.addrDbgdata → s.target.dbg.length = len.toNat → dst.toNat + len.toNat ≤ 65536 →
      ∃ t : State, exec (.dmaDescriptor src dst len c0 c1) s = .next t ∧
        (∀ k : Nat, k < len.toNat → t.target.xdata.read (dst.toNat + k) = s.target.dbg[k]?) ∧
        (∀ k : Nat, k < dst.toNat ∨ dst.toNat + len.toNat ≤ k → t.target.xdata.read k = s.target.xdata.read k) ∧
        t.target.flash = s.target.flash ∧ t.target.armedA = false ∧ { t with target := s.target } = s) ∧
    (∀ (start : Nat) (h l : Byte) (bytes : List Byte), src ≠ s.cfg.addrDbgdata → dst = s.cfg.addrFwdata →
      s.target.xdata.read s.cfg.addrFaddrh.toNat = some h → s.target.xdata.read s.cfg.addrFaddrl.toNat = some l →
      start = 4 * (h.toNat * 256 + l.toNat) → s.target.xdata.readBytes src.toNat len.toNat = some bytes →
      start + len.toNat ≤ 262144 → s.target.erased = true →
      (∀ k : Nat, k < len.toNat → s.target.flash.read (start + k) = none) →
      ∃ t : State, exec (.dmaDescriptor src dst len c0 c1) s = .next t ∧
        (∀ k : Nat, k < len.toNat → t.target.flash.read (start + k) = bytes[k]?) ∧
        (∀ k : Nat, k < start ∨ start + len.toNat ≤ k → t.target.flash.read k = s.target.flash.read k) ∧
        t.target.xdata = s.target.xdata ∧ t.target.armedB = false ∧ { t with target := s.target } = s) ∧
    (∀ (start : Nat) (h l : Byte), src ≠ s.cfg.addrDbgdata → dst = s.cfg.addrFwdata →
      s.target.xdata.read s.cfg.addrFaddrh.toNat = some h → s.target.xdata.read s.cfg.addrFaddrl.toNat = some l →
      start = 4 * (h.toNat * 256 + l.toNat) → 262144 < start + len.toNat →
      exec (.dmaDescriptor src dst len c0 c1) s = .next { s with
        target := { s.target with flash := [], erased := false, armedB := false } }) ∧
    (src ≠ s.cfg.addrDbgdata → dst = s.cfg.addrFwdata →
      s.target.xdata.read s.cfg.addrFaddrh.toNat = none ∨ s.target.xdata.read s.cfg.addrFaddrl.toNat = none →
      exec (.dmaDescriptor src dst len c0 c1) s = .next { s with
        target := { s.target with flash := [], erased := false, armedB := false } })

/-- 42_access_layer.md R215, R216: the commands of a block write, executed in order by a target in debug mode, store every
byte at its address, and change no other byte of XDATA; for blocks that reach none of the arm register, the flash
controller, the flash write-data register and the debug-data buffer, whose stores have effects of their own (StoreFrame;
20_memory.md R69). That a store in the bank window is a store like another is notes/assumptions/32.md. -/
def Obligations.BlockStored : Prop :=
  ∀ (s : State) (a : Half) (bs : List Byte), s.target.inDebug = true → a.toNat + bs.length ≤ 0x10000 →
    (s.cfg.addrDmaarm.toNat < a.toNat ∨ a.toNat + bs.length ≤ s.cfg.addrDmaarm.toNat) →
    (s.cfg.addrFctl.toNat < a.toNat ∨ a.toNat + bs.length ≤ s.cfg.addrFctl.toNat) →
    (s.cfg.addrFwdata.toNat < a.toNat ∨ a.toNat + bs.length ≤ s.cfg.addrFwdata.toNat) →
    (s.cfg.addrDbgdata.toNat < a.toNat ∨ a.toNat + bs.length ≤ s.cfg.addrDbgdata.toNat) →
    ∃ t : State, execAll (.tMovDptr a :: storeInstrs bs) s = .next t ∧
      (∀ k : Nat, k < bs.length → t.target.xdata.read (a.toNat + k) = bs[k]?) ∧
      (∀ k : Nat, k < a.toNat ∨ a.toNat + bs.length ≤ k → t.target.xdata.read k = s.target.xdata.read k) ∧
      t.target.flash = s.target.flash ∧ t.target.armedA = s.target.armedA ∧ t.target.armedB = s.target.armedB ∧
      t.target.inDebug = true ∧ { t with target := s.target } = s

/-- 43_flash_program.md R246 to R252, 20_memory.md R81: a burst to a target whose channel A is armed and whose DMA is
enabled, with no earlier byte waiting, followed by the transfers of the two descriptors of its length, programs the burst's
bytes at the start address that FADDRH and FADDRL hold (20_memory.md R72, 43_flash_program.md R247), when those locations
are erased, and no other flash byte. The transfers are those of the descriptors themselves; when a channel makes them is notes/assumptions/28.md, what the target is known to hold
7.md, that a length above 8191 is a plain length 38.md, and that a staging buffer in the bank window holds the bytes that
channel B reads and leaves flash unchanged 36.md; that channel A's transfer leaves FADDRH and FADDRL as they were is 43.md. -/
def Obligations.BurstProgramsFlash : Prop :=
  ∀ (s : State) (data : List Byte) (start : Nat) (h l : Byte), s.target.inDebug = true → s.target.armedA = true →
    s.target.config = s.cfg.configEnableDma → s.target.dbg = [] → configLegal s.cfg = true →
    data.length = s.cfg.blockSize →
    s.cfg.addrBuf.toNat + data.length ≤ 65536 → s.cfg.addrBuf ≠ s.cfg.addrDbgdata →
    s.target.xdata.read s.cfg.addrFaddrh.toNat = some h → s.target.xdata.read s.cfg.addrFaddrl.toNat = some l →
    start = 4 * (h.toNat * 256 + l.toNat) → start + data.length ≤ 262144 → s.target.erased = true →
    (∀ k : Nat, k < data.length → s.target.flash.read (start + k) = none) →
    ∃ t : State,
      execAll [.burstWrite data,
        .dmaDescriptor s.cfg.addrDbgdata s.cfg.addrBuf (BitVec.ofNat 16 data.length) s.cfg.ctrlA0 s.cfg.ctrlA1,
        .dmaDescriptor s.cfg.addrBuf s.cfg.addrFwdata (BitVec.ofNat 16 data.length) s.cfg.ctrlB0 s.cfg.ctrlB1] s
        = .next t ∧
      (∀ k : Nat, k < data.length → t.target.flash.read (start + k) = data[k]?) ∧
      (∀ k : Nat, k < start ∨ start + data.length ≤ k → t.target.flash.read k = s.target.flash.read k)

/-! ### Invariants, and what no step does -/

/-- 40_link_engine.md R130 to R169, 10_state.md R24 to R30: with parameters that 00_scope.md R7 allows, every step keeps
the invariant of the Link Engine: lifecycle, variant and phase agree; strobe and reset are always driven, the data line
exactly while sending; the strobe and reset levels are those of the phase; every working register a phase reads has been
written, and is in its range (HOLDCNT from 1 to N_RST_HOLD in a hold); and the falling edges the target has counted under
reset are those of FALLS. -/
def Obligations.StepKeepsLinkLegal : Prop :=
  ∀ s t : State, s.linkLegal = true → step s = .next t → t.linkLegal = true

/-- 10_state.md R49, 70_reset_and_hazards.md R331: the machine right after power-on satisfies every invariant stated here. (The parameters State.reset has are
notes/assumptions/2.md's, the target's empty memories and the empty task list 10.md's; the invariants rest on them.) -/
def Obligations.ResetLegal : Prop :=
  State.reset.linkLegal = true ∧ State.reset.fifosLegal = true ∧ State.reset.errLegal = true ∧
  State.reset.offLegal = true ∧ State.reset.memLegal = true ∧ State.reset.sessionLegal = true

/-- 40_link_engine.md R169, 93_implementation_defined.md G16: in a state that satisfies the invariant the sequencer always
has a step, whatever the target answers, and the step keeps the phase only in the holds of 10_state.md R33, in the two
holds of the attach program, and where it rests. -/
def Obligations.SequencerNeverStuck : Prop :=
  ∀ s : State, s.linkLegal = true → s.mover = .sequencer →
    ∃ t : State, step s = .next t ∧
      (t.phase = s.phase → s.life ≠ .running ∨ s.phase = .atDone ∨ s.phase = .atHold ∨ s.phase = .atSettle ∨
        (s.txf = [] ∧ (s.phase = .cIdle ∨ s.phase = .cFetch0 ∨ s.phase = .cRefill)) ∨
        (s.cfg.rxfDepth ≤ s.rxf.length ∧ s.phase = .cPush))

/-- 40_link_engine.md R168, 70_reset_and_hazards.md R340: in a step of the sequencer under a command variant, from a state
that satisfies the invariant, the direction of the data line changes only in C_DIROUT and C_DIRIN and its driven level only in C_TXSET, and
the strobe is low before and after. (An abort, LE.ABORT or LE.STOP, and the attach program are not spoken of: R136, R141.) -/
def Obligations.DirectionDiscipline : Prop :=
  ∀ s t : State, s.linkLegal = true → s.mover = .sequencer → s.variant ≠ .vAttach → step s = .next t →
    (t.ddOe ≠ s.ddOe → (s.phase = .cDirout ∨ s.phase = .cDirin) ∧ s.dcOut = false ∧ t.dcOut = false) ∧
    (t.ddOut ≠ s.ddOut → s.phase = .cTxset ∧ s.dcOut = false ∧ t.dcOut = false) ∧
    (t.dcOut ≠ s.dcOut → t.ddOe = s.ddOe ∧ t.ddOut = s.ddOut) ∧ t.rstnOut = true

/-- 20_memory.md R60, 10_state.md R32, R33, 60_exceptions.md R290, 44_flash_read_and_transfer.md R275: every step keeps the
canonical form of the target's two memories (the form is notes/assumptions/9.md's) and each queue within its depth; ERR
never comes to hold 5 or 7; and TO_OFF stays TO_BLK times BLOCK_SIZE. -/
def Obligations.StepKeepsData : Prop :=
  ∀ s t : State, step s = .next t →
    (s.memLegal = true → t.memLegal = true) ∧ (s.fifosLegal = true → t.fifosLegal = true) ∧
    (s.errLegal = true → t.errLegal = true) ∧ (s.offLegal = true → t.offLegal = true)

/-- 60_exceptions.md R305, R306, 10_state.md R49: while nobody owns the block it is torn down and the host context idle, and
so is it while TO.RESTART settles. -/
def Obligations.StepKeepsSession : Prop :=
  ∀ s t : State, s.sessionLegal = true → step s = .next t → t.sessionLegal = true

/-- 10_state.md R48, R24: no step writes a parameter, or turns the driver of the strobe or of reset on or off. 00_scope.md
R7: the constraints on the parameters that no operation checks, as the invariant of the Link Engine supposes them (the last,
that OP_NULL has no count bits, is notes/assumptions/30.md's). -/
def Obligations.StepKeepsParameters : Prop :=
  (∀ s t : State, step s = .next t →
    t.cfg = s.cfg ∧ t.pinsOe.getLsbD 1 = s.pinsOe.getLsbD 1 ∧ t.pinsOe.getLsbD 2 = s.pinsOe.getLsbD 2) ∧
  (∀ s : State, s.linkLegal = true → parametersLegal s.cfg = true) ∧
  ∀ cfg : Config, parametersLegal cfg = true ↔
    1 ≤ cfg.nRstHold ∧ 1 ≤ cfg.txfDepth ∧ 1 ≤ cfg.rxfDepth ∧ 10 * cfg.tTargetMin ≤ cfg.tTick ∧
      cfg.opNull &&& 3#8 = 0#8

/-- 60_exceptions.md R314, 00_scope.md R13: a step of the target or of its DMA controller changes nothing of the block, and
one of the DMA controller nothing by which the block could see it (20_memory.md R81): neither the response still to be
clocked nor what the target has taken from the wire; a step of the sequencer changes pins, working registers, the phase,
LE_DONE, the two queues and what the target has seen of the pins, and nothing that only the host context writes. (The turn, the step counter and the listed answers on the
data line are the model's own, notes/assumptions/3.md, 4.md.) -/
def Obligations.AgentsTouchTheirOwn : Prop :=
  ∀ s t : State, step s = .next t →
    (s.mover = .target ∨ s.mover = .dma →
      t = { s with target := t.target, turns := s.turns.tail, clock := s.clock + 1 }) ∧
    (s.mover = .dma →
      t.target.resp = s.target.resp ∧ t.target.inbox = s.target.inbox ∧ t.target.bits = s.target.bits ∧
        t.target.falls = s.target.falls ∧ t.target.inDebug = s.target.inDebug) ∧
    (s.mover = .sequencer →
      t = { s with
        pinsOut := t.pinsOut, pinsOe := t.pinsOe, leDone := t.leDone, phase := t.phase, osr := t.osr, osrb := t.osrb
        opc := t.opc, txseg := t.txseg, bitcnt := t.bitcnt, wcnt := t.wcnt, rcnt := t.rcnt, isr := t.isr, nr := t.nr
        holdcnt := t.holdcnt, falls := t.falls, txf := t.txf, rxf := t.rxf, target := t.target, dd := t.dd
        turns := s.turns.tail, clock := s.clock + 1 })

/-- 10_state.md R21, 60_exceptions.md R310: an AL, ID, FP, FR or TO operation other than TO.SESSION_END and TO.RESTART writes,
when it is issued, no pin, no working register, no queue and none of the Link Engine's lifecycle fields: only the lifecycle
operations and the exchanges it calls do, and its calls are the tasks it leaves (notes/assumptions/16.md). The LE operations,
CP.XCHG and the two that tear a session down are left out. -/
def Obligations.UpperOperationsLeaveLink : Prop :=
  ∀ (s t : State) (i : Instr), isOperation i = true →
    (match encode Config.default i with | .hop c _ => c.toNat | _ => 0) ≥ 0x20 → i ≠ .toSessionEnd → i ≠ .toRestart →
    exec i s = .next t →
    t.pinsOut = s.pinsOut ∧ t.pinsOe = s.pinsOe ∧ t.life = s.life ∧ t.leDone = s.leDone ∧ t.variant = s.variant ∧
    t.phase = s.phase ∧ t.osr = s.osr ∧ t.osrb = s.osrb ∧ t.opc = s.opc ∧ t.txseg = s.txseg ∧ t.bitcnt = s.bitcnt ∧
    t.wcnt = s.wcnt ∧ t.rcnt = s.rcnt ∧ t.isr = s.isr ∧ t.nr = s.nr ∧ t.holdcnt = s.holdcnt ∧ t.falls = s.falls ∧
    t.txf = s.txf ∧ t.rxf = s.rxf ∧ t.target = s.target

/-- 10_state.md R49, 70_reset_and_hazards.md R331: the values the spec states for power-on, and that a working register
holds none. -/
def Obligations.ResetValues : Prop :=
  State.reset.pinsOe = 0b110#3 ∧ State.reset.pinsOut = 0b100#3 ∧ State.reset.life = .unloaded ∧
  State.reset.variant = .vNone ∧ State.reset.phase = .pStopped ∧ State.reset.leDone = false ∧
  State.reset.osr.written = false ∧ State.reset.osrb.written = false ∧ State.reset.opc.written = false ∧
  State.reset.txseg.written = false ∧ State.reset.bitcnt.written = false ∧ State.reset.wcnt.written = false ∧
  State.reset.rcnt.written = false ∧ State.reset.isr.written = false ∧ State.reset.nr.written = false ∧
  State.reset.holdcnt.written = false ∧ State.reset.falls.written = false ∧ State.reset.txf = [] ∧
  State.reset.rxf = [] ∧ State.reset.owner = .free ∧ State.reset.chipState = .unset ∧
  State.reset.dmaEnabled = false ∧ State.reset.fpState = .idle ∧ State.reset.err = 0#3 ∧ State.reset.eoi = false ∧
  State.reset.toMode = .none ∧ State.reset.toNblk = 0#19 ∧ State.reset.toBlk = 0#19 ∧ State.reset.toOff = 0#19
end

