-- ==== Sys2Proof/Laws/Encoding.lean ====
section
/-! SUPPORT. Bytes, bits and words: what the bit-field and byte-order helpers of Decode.lean do, and which kind of
instruction each decoder gives. -/

namespace Sys2Proof

/-! ### Bytes of a word -/

/-- The bytes of a word, in wire order, make the word. -/
theorem word4_wordByte (w : Word) : word4 (wordByte w 0) (wordByte w 1) (wordByte w 2) (wordByte w 3) = w := by
  ext i hi; simp [word4, wordByte]; grind

@[simp] theorem wordByte_word4_0 (a b c d : Byte) : wordByte (word4 a b c d) 0 = a := by
  ext i hi; simp [word4, wordByte]; grind

@[simp] theorem wordByte_word4_1 (a b c d : Byte) : wordByte (word4 a b c d) 1 = b := by
  ext i hi; simp [word4, wordByte]; grind

@[simp] theorem wordByte_word4_2 (a b c d : Byte) : wordByte (word4 a b c d) 2 = c := by
  ext i hi; simp [word4, wordByte]; grind

@[simp] theorem wordByte_word4_3 (a b c d : Byte) : wordByte (word4 a b c d) 3 = d := by
  ext i hi; simp [word4, wordByte]; grind

/-- The opcode byte as its two fields (30_encoding.md R92). -/
theorem word4_fields (w : Word) :
    word4 (w.extractLsb' 26 6 ++ w.extractLsb' 24 2) (wordByte w 1) (wordByte w 2) (wordByte w 3) = w := by
  ext i hi; simp [word4, wordByte]; grind

/-- A null word is its opcode byte and the ignored bits (30_encoding.md R99). -/
theorem null_word {op : Byte} (w : Word) (h : wordByte w 0 = op) : (op ++ w.extractLsb' 0 24 : BitVec 32) = w := by
  rw [← h]; ext i hi; simp [wordByte]; grind

@[simp] theorem wordByte_null (op : Byte) (x : BitVec 24) : wordByte (op ++ x) 0 = op := by
  ext i hi; simp [wordByte]; grind

@[simp] theorem be16_hi_lo (v : Half) : be16 (hi v) (lo v) = v := by
  ext i hi; simp [be16, Sys2Proof.hi, lo]; grind

@[simp] theorem hi_be16 (h l : Byte) : hi (be16 h l) = h := by
  ext i hi; simp [be16, Sys2Proof.hi]; grind

@[simp] theorem lo_be16 (h l : Byte) : lo (be16 h l) = l := by
  ext i hi; simp [be16, lo]; grind

/-! ### Bits of a byte -/

theorem bitsByte_getLsbD (b : Byte) :
    bitsByte (b.getLsbD 7) (b.getLsbD 6) (b.getLsbD 5) (b.getLsbD 4) (b.getLsbD 3) (b.getLsbD 2) (b.getLsbD 1)
      (b.getLsbD 0) = b := by
  revert b; decide

/-- The eight bits of a byte, in wire order, make the byte. -/
theorem packBits_byteBits (b : Byte) (rest : List Bool) : packBits (byteBits b ++ rest) = b :: packBits rest := by
  simp only [byteBits, List.cons_append, List.nil_append, packBits, List.cons.injEq, and_true]
  exact bitsByte_getLsbD b

/-- The bits of a list of bytes, in wire order, make the bytes. -/
theorem packBits_flatMap (bs : List Byte) : packBits (bs.flatMap byteBits) = bs := by
  induction bs with
  | nil => rfl
  | cons b bs ih => rw [List.flatMap_cons, packBits_byteBits, ih]

@[simp] theorem byteBits_length (b : Byte) : (byteBits b).length = 8 := rfl

/-! ### The kind of instruction each decoder gives -/

namespace Machine

/-- A HOP code decodes to an operation. -/
theorem decodeHop_isOperation {c : Byte} {g : Args} {i : Instr} (h : decodeHop c g = .ok i) : isOperation i = true := by
  unfold decodeHop at h
  repeat' split at h
  all_goals first | contradiction | (injection h with h; subst h; rfl)

/-- A frame decodes to a command. -/
theorem decodeCommand_isCommand {cfg : Config} {b : List Byte} {i : Instr} (h : decodeCommand cfg b = .ok i) :
    isCommand i = true := by
  cases b with
  | nil => cases h
  | cons op pl =>
    simp only [decodeCommand, decodeOpcode] at h
    repeat' split at h
    all_goals first
      | contradiction
      | (simp only [wantNone, wantOne, wantTwo, wantThree, decodeBurst] at h
         repeat' split at h
         all_goals first
          | contradiction
          | (injection h with h
             subst h
             first
              | rfl
              | (simp only [decodeInstr1, decodeInstr2, decodeInstr3]; repeat' split
                 all_goals rfl)))

/-- Eight bytes decode to a descriptor, and nothing else does. -/
theorem decodeDesc_isDescriptor {b : List Byte} {i : Instr} (h : decodeDesc b = .ok i) :
    ∃ (src dst len : Half) (c0 c1 : Byte), i = .dmaDescriptor src dst len c0 c1 := by
  unfold decodeDesc at h
  split at h
  · injection h with h; subst h; exact ⟨_, _, _, _, _, rfl⟩
  · contradiction

/-- A sub-operation is an operation. -/
theorem SubOp.instr_isOperation (o : SubOp) : isOperation o.instr = true := by cases o <;> rfl

end Machine

end Sys2Proof
end

