-- ==== Sys2Proof/Laws/Memory.lean ====
section
/-! SUPPORT. The laws of the target memories: what a read sees after each operation, and that every operation keeps the
canonical form. -/

namespace Sys2Proof.Machine

/-! ### Reads after one operation -/

@[simp] theorem Memory.read_nil (a : Nat) : Memory.read [] a = none := rfl

/-- Below the least address nothing is listed. -/
theorem Memory.read_below {m : Memory} {k a : Nat} (h : m.risingFrom k = true) (ha : a < k) : m.read a = none := by
  induction m generalizing k with
  | nil => rfl
  | cons c m ih =>
    simp only [Memory.risingFrom, Bool.and_eq_true, decide_eq_true_eq] at h
    simp only [Memory.read, show c.1 ≠ a by omega, if_false]
    exact ih h.2 (by omega)

@[simp] theorem Memory.read_write_same (m : Memory) (a : Nat) (v : Byte) : (m.write a v).read a = some v := by
  induction m with
  | nil => simp [Memory.write, Memory.read]
  | cons c m ih =>
    simp only [Memory.write]
    split
    · simp [Memory.read]
    · split
      · simp [Memory.read]
      · rename_i h; simp [Memory.read, ih, Ne.symm h]

theorem Memory.read_write_other (m : Memory) {a k : Nat} (v : Byte) (h : k ≠ a) : (m.write a v).read k = m.read k := by
  induction m with
  | nil => simp [Memory.write, Memory.read, Ne.symm h]
  | cons c m ih =>
    simp only [Memory.write]
    split
    · simp [Memory.read, Ne.symm h]
    · split
      · rename_i hc; simp [Memory.read, Ne.symm h, ← hc]
      · simp [Memory.read, ih]

/-- What a read finds after a write. -/
theorem Memory.read_write (m : Memory) (a k : Nat) (v : Byte) :
    (m.write a v).read k = if k = a then some v else m.read k := by
  split
  · rename_i h; rw [h, read_write_same]
  · rename_i h; exact read_write_other m v h

/-- Losing sight of one byte leaves the others. -/
theorem Memory.read_erase_other (m : Memory) {a k : Nat} (h : k ≠ a) : (m.erase a).read k = m.read k := by
  induction m with
  | nil => rfl
  | cons c m ih =>
    simp only [Memory.erase]
    split
    · rename_i hc; simp [Memory.read, hc, Ne.symm h]
    · simp [Memory.read, ih]

/-! ### Reads after a run of writes -/

/-- A write below a run of writes is seen through it. -/
theorem Memory.read_writeBytes_outside (m : Memory) (a : Nat) (vs : List Byte) {k : Nat}
    (h : k < a ∨ a + vs.length ≤ k) : (m.writeBytes a vs).read k = m.read k := by
  induction vs generalizing m a with
  | nil => rfl
  | cons v vs ih =>
    simp only [List.length_cons] at h
    rw [Memory.writeBytes, ih _ _ (by omega), read_write_other _ _ (by omega)]

/-- Each byte of a run of writes is found where it was written. -/
theorem Memory.read_writeBytes_inside (m : Memory) (a : Nat) (vs : List Byte) {k : Nat} (h : k < vs.length) :
    (m.writeBytes a vs).read (a + k) = vs[k]? := by
  induction vs generalizing m a k with
  | nil => simp at h
  | cons v vs ih =>
    cases k with
    | zero => simp [Memory.writeBytes, read_writeBytes_outside _ _ _ (k := a) (.inl (Nat.lt_succ_self a))]
    | succ k =>
      simp only [Memory.writeBytes, List.getElem?_cons_succ]
      rw [← ih (m.write a v) (a + 1) (by simpa using h)]
      congr 1; omega

/-- A whole run read back where each byte of it is known. -/
theorem Memory.readBytes_eq (m : Memory) (a : Nat) (vs : List Byte)
    (h : ∀ k : Nat, k < vs.length → m.read (a + k) = vs[k]?) : m.readBytes a vs.length = some vs := by
  induction vs generalizing a with
  | nil => rfl
  | cons v vs ih =>
    have h0 : m.read a = some v := by simpa using h 0 (by simp)
    have ht := ih (a + 1) (fun k hk => by
      have := h (k + 1) (by simpa using hk)
      rwa [show a + (k + 1) = a + 1 + k by omega, List.getElem?_cons_succ] at this)
    simp [Memory.readBytes, h0, ht]

/-- A run that reads back has as many bytes as were asked for. -/
theorem Memory.readBytes_length (m : Memory) (a n : Nat) {vs : List Byte} (h : m.readBytes a n = some vs) :
    vs.length = n := by
  induction n generalizing a vs with
  | zero => simp [Memory.readBytes] at h; simp [← h]
  | succ n ih =>
    simp only [Memory.readBytes] at h
    split at h
    · rename_i b bs _ hb; simp only [Option.some.injEq] at h; simp [← h, ih _ hb]
    · cases h

/-! ### The canonical form -/

theorem Memory.risingFrom_mono {m : Memory} {k j : Nat} (h : m.risingFrom k = true) (hj : j ≤ k) :
    m.risingFrom j = true := by
  cases m with
  | nil => rfl
  | cons c m =>
    simp only [Memory.risingFrom, Bool.and_eq_true, decide_eq_true_eq] at h ⊢
    exact ⟨by omega, h.2⟩

theorem Memory.risingFrom_write {m : Memory} {k a : Nat} (v : Byte) (h : m.risingFrom k = true) (ha : k ≤ a) :
    (m.write a v).risingFrom k = true := by
  induction m generalizing k with
  | nil => simp [Memory.write, Memory.risingFrom, ha]
  | cons c m ih =>
    simp only [Memory.risingFrom, Bool.and_eq_true, decide_eq_true_eq] at h
    simp only [Memory.write]
    split
    · rename_i hc
      simp only [Memory.risingFrom, Bool.and_eq_true, decide_eq_true_eq]
      exact ⟨ha, hc, h.2⟩
    · split
      · rename_i hc
        simp only [Memory.risingFrom, Bool.and_eq_true, decide_eq_true_eq]
        exact ⟨ha, hc ▸ h.2⟩
      · simp only [Memory.risingFrom, Bool.and_eq_true, decide_eq_true_eq]
        exact ⟨h.1, ih h.2 (by omega)⟩

theorem Memory.risingFrom_erase {m : Memory} {k : Nat} (a : Nat) (h : m.risingFrom k = true) :
    (m.erase a).risingFrom k = true := by
  induction m generalizing k with
  | nil => rfl
  | cons c m ih =>
    simp only [Memory.risingFrom, Bool.and_eq_true, decide_eq_true_eq] at h
    simp only [Memory.erase]
    split
    · exact risingFrom_mono h.2 (by omega)
    · simp only [Memory.risingFrom, Bool.and_eq_true, decide_eq_true_eq]
      exact ⟨h.1, ih h.2⟩

@[simp] theorem Memory.wf_nil : Memory.wf [] = true := rfl

theorem Memory.wf_write {m : Memory} (a : Nat) (v : Byte) (h : m.wf = true) : (m.write a v).wf = true :=
  risingFrom_write v h (Nat.zero_le a)

theorem Memory.wf_erase {m : Memory} (a : Nat) (h : m.wf = true) : (m.erase a).wf = true := risingFrom_erase a h

theorem Memory.wf_writeBytes {m : Memory} (a : Nat) (vs : List Byte) (h : m.wf = true) :
    (m.writeBytes a vs).wf = true := by
  induction vs generalizing m a with
  | nil => exact h
  | cons v vs ih => exact ih _ (wf_write a v h)

/-- Two memories in canonical form that read alike are the same data. -/
theorem Memory.ext_of_read {m n : Memory} (hm : m.wf = true) (hn : n.wf = true)
    (h : ∀ a : Nat, m.read a = n.read a) : m = n := by
  suffices ∀ (k : Nat), m.risingFrom k = true → n.risingFrom k = true → m = n from this 0 hm hn
  clear hm hn
  intro k hm hn
  induction m generalizing n k with
  | nil =>
    cases n with
    | nil => rfl
    | cons c n => have := h c.1; simp [Memory.read] at this
  | cons c m ih =>
    cases n with
    | nil => have := h c.1; simp [Memory.read] at this
    | cons d n =>
      simp only [Memory.risingFrom, Bool.and_eq_true, decide_eq_true_eq] at hm hn
      have hcd : c.1 = d.1 := by
        rcases Nat.lt_trichotomy c.1 d.1 with hlt | heq | hgt
        · have := h c.1
          rw [Memory.read, if_pos rfl, Memory.read, if_neg (by omega), read_below hn.2 (by omega)] at this
          cases this
        · exact heq
        · have := h d.1
          rw [Memory.read, if_neg (by omega), Memory.read, if_pos rfl, read_below hm.2 (by omega)] at this
          cases this
      have hv : c.2 = d.2 := by simpa [Memory.read, hcd] using h d.1
      have htail : m = n := by
        refine ih (fun a => ?_) (c.1 + 1) hm.2 (hcd ▸ hn.2)
        by_cases ha : a = c.1
        · rw [ha, read_below hm.2 (by omega), read_below hn.2 (by omega)]
        · have := h a
          rwa [Memory.read, if_neg (Ne.symm ha), Memory.read, if_neg (hcd ▸ Ne.symm ha)] at this
      rw [htail, Prod.ext hcd hv]

/-- The memories of the target at power-on have the form. -/
theorem Target.atPowerOn_wf : Target.atPowerOn.xdata.wf = true ∧ Target.atPowerOn.flash.wf = true := ⟨rfl, rfl⟩

/-! ### Flash programming -/

/-- Programming one byte leaves the others. -/
theorem Target.programByte_other (t : Target) {a k : Nat} (v : Byte) (h : k ≠ a) :
    (t.programByte a v).flash.read k = t.flash.read k := by
  unfold Target.programByte
  split
  · split
    · exact Memory.read_write_other _ _ h
    · rfl
  · exact Memory.read_erase_other _ h

/-- Programming keeps the canonical form. -/
theorem Target.programByte_wf (t : Target) (a : Nat) (v : Byte) (h : t.flash.wf = true) :
    (t.programByte a v).flash.wf = true := by
  unfold Target.programByte
  split
  · split
    · exact Memory.wf_write a v h
    · exact h
  · exact Memory.wf_erase a h

/-- Programming a byte changes flash and whether it is known to be erased, nothing else. -/
theorem Target.programByte_frame (t : Target) (a : Nat) (v : Byte) :
    t.programByte a v = { t with flash := (t.programByte a v).flash, erased := (t.programByte a v).erased } := by
  unfold Target.programByte
  repeat' split
  all_goals rfl

/-- Programming a run changes flash and whether it is known to be erased, nothing else. -/
theorem Target.programBytes_frame (t : Target) (a : Nat) (vs : List Byte) :
    t.programBytes a vs = { t with flash := (t.programBytes a vs).flash, erased := (t.programBytes a vs).erased } := by
  induction vs generalizing t a with
  | nil => rfl
  | cons v vs ih => rw [Target.programBytes, ih, Target.programByte_frame]

theorem Target.programBytes_wf (t : Target) (a : Nat) (vs : List Byte) (h : t.flash.wf = true) :
    (t.programBytes a vs).flash.wf = true := by
  induction vs generalizing t a with
  | nil => exact h
  | cons v vs ih => exact ih _ _ (Target.programByte_wf t a v h)

/-- Programming a run leaves every byte outside it. -/
theorem Target.programBytes_outside (t : Target) (a : Nat) (vs : List Byte) {k : Nat}
    (h : k < a ∨ a + vs.length ≤ k) : (t.programBytes a vs).flash.read k = t.flash.read k := by
  induction vs generalizing t a with
  | nil => rfl
  | cons v vs ih =>
    simp only [List.length_cons] at h
    rw [Target.programBytes, ih _ _ (by omega)]
    exact Target.programByte_other t v (by omega)

/-- On erased flash each byte of a run is found where it was programmed (70_reset_and_hazards.md R344 c). -/
theorem Target.programBytes_inside (t : Target) (a : Nat) (vs : List Byte) (he : t.erased = true)
    (hn : ∀ k : Nat, k < vs.length → t.flash.read (a + k) = none) {k : Nat} (h : k < vs.length) :
    (t.programBytes a vs).flash.read (a + k) = vs[k]? := by
  induction vs generalizing t a k with
  | nil => simp at h
  | cons v vs ih =>
    have h0 : t.flash.read a = none := by simpa using hn 0 (by simp)
    have hp : t.programByte a v = { t with flash := t.flash.write a v } := by simp [Target.programByte, h0, he]
    cases k with
    | zero =>
      rw [Target.programBytes, Target.programBytes_outside _ _ _ (by omega)]
      simp [hp]
    | succ k =>
      rw [Target.programBytes, show a + (k + 1) = a + 1 + k by omega]
      rw [ih (t.programByte a v) (a + 1) (by rw [hp]; exact he) (fun j hj => ?_) (by simpa using h)]
      · simp
      · rw [show a + 1 + j = a + (j + 1) by omega] at *
        rw [Target.programByte_other t v (by omega)]
        exact hn (j + 1) (by simpa using hj)

/-- The number a pair of bytes holds, the high byte first (20_memory.md R65). -/
theorem be16_toNat (h l : Byte) : (be16 h l).toNat = h.toNat * 256 + l.toNat := by
  rw [be16, BitVec.toNat_append, ← Nat.shiftLeft_add_eq_or_of_lt l.isLt, Nat.shiftLeft_eq]

/-- The flash start address is four times what FADDRH and FADDRL hold (20_memory.md R72). -/
theorem Target.flashStart_eq (t : Target) (cfg : Config) {h l : Byte} (hh : t.xdata.read cfg.addrFaddrh.toNat = some h)
    (hl : t.xdata.read cfg.addrFaddrl.toNat = some l) : t.flashStart cfg = some (4 * (h.toNat * 256 + l.toNat)) := by
  simp only [Target.flashStart, hh, hl, be16_toNat, Nat.mul_comm 4]

end Sys2Proof.Machine
end

