-- ==== Sys2Proof/Laws/State.lean ====
section
/-! SUPPORT. The fields of a state after each named update, one lemma per field and update, so that no proof unfolds an
update of the record. -/

namespace Sys2Proof.Machine

/-! `push`: a call -/

@[simp] theorem State.push_cfg (s : State) (ts : List Task) : (s.push ts).cfg = s.cfg := rfl
@[simp] theorem State.push_pinsOut (s : State) (ts : List Task) : (s.push ts).pinsOut = s.pinsOut := rfl
@[simp] theorem State.push_pinsOe (s : State) (ts : List Task) : (s.push ts).pinsOe = s.pinsOe := rfl
@[simp] theorem State.push_life (s : State) (ts : List Task) : (s.push ts).life = s.life := rfl
@[simp] theorem State.push_leDone (s : State) (ts : List Task) : (s.push ts).leDone = s.leDone := rfl
@[simp] theorem State.push_variant (s : State) (ts : List Task) : (s.push ts).variant = s.variant := rfl
@[simp] theorem State.push_phase (s : State) (ts : List Task) : (s.push ts).phase = s.phase := rfl
@[simp] theorem State.push_osr (s : State) (ts : List Task) : (s.push ts).osr = s.osr := rfl
@[simp] theorem State.push_osrb (s : State) (ts : List Task) : (s.push ts).osrb = s.osrb := rfl
@[simp] theorem State.push_opc (s : State) (ts : List Task) : (s.push ts).opc = s.opc := rfl
@[simp] theorem State.push_txseg (s : State) (ts : List Task) : (s.push ts).txseg = s.txseg := rfl
@[simp] theorem State.push_bitcnt (s : State) (ts : List Task) : (s.push ts).bitcnt = s.bitcnt := rfl
@[simp] theorem State.push_wcnt (s : State) (ts : List Task) : (s.push ts).wcnt = s.wcnt := rfl
@[simp] theorem State.push_rcnt (s : State) (ts : List Task) : (s.push ts).rcnt = s.rcnt := rfl
@[simp] theorem State.push_isr (s : State) (ts : List Task) : (s.push ts).isr = s.isr := rfl
@[simp] theorem State.push_nr (s : State) (ts : List Task) : (s.push ts).nr = s.nr := rfl
@[simp] theorem State.push_holdcnt (s : State) (ts : List Task) : (s.push ts).holdcnt = s.holdcnt := rfl
@[simp] theorem State.push_falls (s : State) (ts : List Task) : (s.push ts).falls = s.falls := rfl
@[simp] theorem State.push_txf (s : State) (ts : List Task) : (s.push ts).txf = s.txf := rfl
@[simp] theorem State.push_rxf (s : State) (ts : List Task) : (s.push ts).rxf = s.rxf := rfl
@[simp] theorem State.push_owner (s : State) (ts : List Task) : (s.push ts).owner = s.owner := rfl
@[simp] theorem State.push_chipState (s : State) (ts : List Task) : (s.push ts).chipState = s.chipState := rfl
@[simp] theorem State.push_chipId (s : State) (ts : List Task) : (s.push ts).chipId = s.chipId := rfl
@[simp] theorem State.push_chipRev (s : State) (ts : List Task) : (s.push ts).chipRev = s.chipRev := rfl
@[simp] theorem State.push_chipName (s : State) (ts : List Task) : (s.push ts).chipName = s.chipName := rfl
@[simp] theorem State.push_dmaEnabled (s : State) (ts : List Task) : (s.push ts).dmaEnabled = s.dmaEnabled := rfl
@[simp] theorem State.push_fpState (s : State) (ts : List Task) : (s.push ts).fpState = s.fpState := rfl
@[simp] theorem State.push_fpLen (s : State) (ts : List Task) : (s.push ts).fpLen = s.fpLen := rfl
@[simp] theorem State.push_err (s : State) (ts : List Task) : (s.push ts).err = s.err := rfl
@[simp] theorem State.push_eoi (s : State) (ts : List Task) : (s.push ts).eoi = s.eoi := rfl
@[simp] theorem State.push_toMode (s : State) (ts : List Task) : (s.push ts).toMode = s.toMode := rfl
@[simp] theorem State.push_toNblk (s : State) (ts : List Task) : (s.push ts).toNblk = s.toNblk := rfl
@[simp] theorem State.push_toBlk (s : State) (ts : List Task) : (s.push ts).toBlk = s.toBlk := rfl
@[simp] theorem State.push_toOff (s : State) (ts : List Task) : (s.push ts).toOff = s.toOff := rfl
@[simp] theorem State.push_buf (s : State) (ts : List Task) : (s.push ts).buf = s.buf := rfl
@[simp] theorem State.push_tmo (s : State) (ts : List Task) : (s.push ts).tmo = s.tmo := rfl
@[simp] theorem State.push_tmoErase (s : State) (ts : List Task) : (s.push ts).tmoErase = s.tmoErase := rfl
@[simp] theorem State.push_tmoProg (s : State) (ts : List Task) : (s.push ts).tmoProg = s.tmoProg := rfl
@[simp] theorem State.push_tmoLink2 (s : State) (ts : List Task) : (s.push ts).tmoLink2 = s.tmoLink2 := rfl
@[simp] theorem State.push_req (s : State) (ts : List Task) : (s.push ts).req = s.req := rfl
@[simp] theorem State.push_tasks (s : State) (ts : List Task) : (s.push ts).tasks = ts ++ s.tasks := rfl
@[simp] theorem State.push_ws (s : State) (ts : List Task) : (s.push ts).ws = s.ws := rfl
@[simp] theorem State.push_result (s : State) (ts : List Task) : (s.push ts).result = s.result := rfl
@[simp] theorem State.push_sunk (s : State) (ts : List Task) : (s.push ts).sunk = s.sunk := rfl
@[simp] theorem State.push_target (s : State) (ts : List Task) : (s.push ts).target = s.target := rfl
@[simp] theorem State.push_turns (s : State) (ts : List Task) : (s.push ts).turns = s.turns := rfl
@[simp] theorem State.push_dd (s : State) (ts : List Task) : (s.push ts).dd = s.dd := rfl
@[simp] theorem State.push_clock (s : State) (ts : List Task) : (s.push ts).clock = s.clock := rfl

/-! `ret`: a return -/

@[simp] theorem State.ret_cfg (s : State) (r : Result) : (s.ret r).cfg = s.cfg := rfl
@[simp] theorem State.ret_pinsOut (s : State) (r : Result) : (s.ret r).pinsOut = s.pinsOut := rfl
@[simp] theorem State.ret_pinsOe (s : State) (r : Result) : (s.ret r).pinsOe = s.pinsOe := rfl
@[simp] theorem State.ret_life (s : State) (r : Result) : (s.ret r).life = s.life := rfl
@[simp] theorem State.ret_leDone (s : State) (r : Result) : (s.ret r).leDone = s.leDone := rfl
@[simp] theorem State.ret_variant (s : State) (r : Result) : (s.ret r).variant = s.variant := rfl
@[simp] theorem State.ret_phase (s : State) (r : Result) : (s.ret r).phase = s.phase := rfl
@[simp] theorem State.ret_osr (s : State) (r : Result) : (s.ret r).osr = s.osr := rfl
@[simp] theorem State.ret_osrb (s : State) (r : Result) : (s.ret r).osrb = s.osrb := rfl
@[simp] theorem State.ret_opc (s : State) (r : Result) : (s.ret r).opc = s.opc := rfl
@[simp] theorem State.ret_txseg (s : State) (r : Result) : (s.ret r).txseg = s.txseg := rfl
@[simp] theorem State.ret_bitcnt (s : State) (r : Result) : (s.ret r).bitcnt = s.bitcnt := rfl
@[simp] theorem State.ret_wcnt (s : State) (r : Result) : (s.ret r).wcnt = s.wcnt := rfl
@[simp] theorem State.ret_rcnt (s : State) (r : Result) : (s.ret r).rcnt = s.rcnt := rfl
@[simp] theorem State.ret_isr (s : State) (r : Result) : (s.ret r).isr = s.isr := rfl
@[simp] theorem State.ret_nr (s : State) (r : Result) : (s.ret r).nr = s.nr := rfl
@[simp] theorem State.ret_holdcnt (s : State) (r : Result) : (s.ret r).holdcnt = s.holdcnt := rfl
@[simp] theorem State.ret_falls (s : State) (r : Result) : (s.ret r).falls = s.falls := rfl
@[simp] theorem State.ret_txf (s : State) (r : Result) : (s.ret r).txf = s.txf := rfl
@[simp] theorem State.ret_rxf (s : State) (r : Result) : (s.ret r).rxf = s.rxf := rfl
@[simp] theorem State.ret_owner (s : State) (r : Result) : (s.ret r).owner = s.owner := rfl
@[simp] theorem State.ret_chipState (s : State) (r : Result) : (s.ret r).chipState = s.chipState := rfl
@[simp] theorem State.ret_chipId (s : State) (r : Result) : (s.ret r).chipId = s.chipId := rfl
@[simp] theorem State.ret_chipRev (s : State) (r : Result) : (s.ret r).chipRev = s.chipRev := rfl
@[simp] theorem State.ret_chipName (s : State) (r : Result) : (s.ret r).chipName = s.chipName := rfl
@[simp] theorem State.ret_dmaEnabled (s : State) (r : Result) : (s.ret r).dmaEnabled = s.dmaEnabled := rfl
@[simp] theorem State.ret_fpState (s : State) (r : Result) : (s.ret r).fpState = s.fpState := rfl
@[simp] theorem State.ret_fpLen (s : State) (r : Result) : (s.ret r).fpLen = s.fpLen := rfl
@[simp] theorem State.ret_err (s : State) (r : Result) : (s.ret r).err = s.err := rfl
@[simp] theorem State.ret_eoi (s : State) (r : Result) : (s.ret r).eoi = s.eoi := rfl
@[simp] theorem State.ret_toMode (s : State) (r : Result) : (s.ret r).toMode = s.toMode := rfl
@[simp] theorem State.ret_toNblk (s : State) (r : Result) : (s.ret r).toNblk = s.toNblk := rfl
@[simp] theorem State.ret_toBlk (s : State) (r : Result) : (s.ret r).toBlk = s.toBlk := rfl
@[simp] theorem State.ret_toOff (s : State) (r : Result) : (s.ret r).toOff = s.toOff := rfl
@[simp] theorem State.ret_buf (s : State) (r : Result) : (s.ret r).buf = s.buf := rfl
@[simp] theorem State.ret_tmo (s : State) (r : Result) : (s.ret r).tmo = s.tmo := rfl
@[simp] theorem State.ret_tmoErase (s : State) (r : Result) : (s.ret r).tmoErase = s.tmoErase := rfl
@[simp] theorem State.ret_tmoProg (s : State) (r : Result) : (s.ret r).tmoProg = s.tmoProg := rfl
@[simp] theorem State.ret_tmoLink2 (s : State) (r : Result) : (s.ret r).tmoLink2 = s.tmoLink2 := rfl
@[simp] theorem State.ret_req (s : State) (r : Result) : (s.ret r).req = s.req := rfl
@[simp] theorem State.ret_tasks (s : State) (r : Result) : (s.ret r).tasks = s.tasks := rfl
@[simp] theorem State.ret_ws (s : State) (r : Result) : (s.ret r).ws = s.ws := rfl
@[simp] theorem State.ret_result (s : State) (r : Result) : (s.ret r).result = r := rfl
@[simp] theorem State.ret_sunk (s : State) (r : Result) : (s.ret r).sunk = s.sunk := rfl
@[simp] theorem State.ret_target (s : State) (r : Result) : (s.ret r).target = s.target := rfl
@[simp] theorem State.ret_turns (s : State) (r : Result) : (s.ret r).turns = s.turns := rfl
@[simp] theorem State.ret_dd (s : State) (r : Result) : (s.ret r).dd = s.dd := rfl
@[simp] theorem State.ret_clock (s : State) (r : Result) : (s.ret r).clock = s.clock := rfl

/-! `refuse`: a refusal -/

@[simp] theorem State.refuse_cfg (s : State) : (s.refuse).cfg = s.cfg := rfl
@[simp] theorem State.refuse_pinsOut (s : State) : (s.refuse).pinsOut = s.pinsOut := rfl
@[simp] theorem State.refuse_pinsOe (s : State) : (s.refuse).pinsOe = s.pinsOe := rfl
@[simp] theorem State.refuse_life (s : State) : (s.refuse).life = s.life := rfl
@[simp] theorem State.refuse_leDone (s : State) : (s.refuse).leDone = s.leDone := rfl
@[simp] theorem State.refuse_variant (s : State) : (s.refuse).variant = s.variant := rfl
@[simp] theorem State.refuse_phase (s : State) : (s.refuse).phase = s.phase := rfl
@[simp] theorem State.refuse_osr (s : State) : (s.refuse).osr = s.osr := rfl
@[simp] theorem State.refuse_osrb (s : State) : (s.refuse).osrb = s.osrb := rfl
@[simp] theorem State.refuse_opc (s : State) : (s.refuse).opc = s.opc := rfl
@[simp] theorem State.refuse_txseg (s : State) : (s.refuse).txseg = s.txseg := rfl
@[simp] theorem State.refuse_bitcnt (s : State) : (s.refuse).bitcnt = s.bitcnt := rfl
@[simp] theorem State.refuse_wcnt (s : State) : (s.refuse).wcnt = s.wcnt := rfl
@[simp] theorem State.refuse_rcnt (s : State) : (s.refuse).rcnt = s.rcnt := rfl
@[simp] theorem State.refuse_isr (s : State) : (s.refuse).isr = s.isr := rfl
@[simp] theorem State.refuse_nr (s : State) : (s.refuse).nr = s.nr := rfl
@[simp] theorem State.refuse_holdcnt (s : State) : (s.refuse).holdcnt = s.holdcnt := rfl
@[simp] theorem State.refuse_falls (s : State) : (s.refuse).falls = s.falls := rfl
@[simp] theorem State.refuse_txf (s : State) : (s.refuse).txf = s.txf := rfl
@[simp] theorem State.refuse_rxf (s : State) : (s.refuse).rxf = s.rxf := rfl
@[simp] theorem State.refuse_owner (s : State) : (s.refuse).owner = s.owner := rfl
@[simp] theorem State.refuse_chipState (s : State) : (s.refuse).chipState = s.chipState := rfl
@[simp] theorem State.refuse_chipId (s : State) : (s.refuse).chipId = s.chipId := rfl
@[simp] theorem State.refuse_chipRev (s : State) : (s.refuse).chipRev = s.chipRev := rfl
@[simp] theorem State.refuse_chipName (s : State) : (s.refuse).chipName = s.chipName := rfl
@[simp] theorem State.refuse_dmaEnabled (s : State) : (s.refuse).dmaEnabled = s.dmaEnabled := rfl
@[simp] theorem State.refuse_fpState (s : State) : (s.refuse).fpState = s.fpState := rfl
@[simp] theorem State.refuse_fpLen (s : State) : (s.refuse).fpLen = s.fpLen := rfl
@[simp] theorem State.refuse_err (s : State) : (s.refuse).err = s.err := rfl
@[simp] theorem State.refuse_eoi (s : State) : (s.refuse).eoi = s.eoi := rfl
@[simp] theorem State.refuse_toMode (s : State) : (s.refuse).toMode = s.toMode := rfl
@[simp] theorem State.refuse_toNblk (s : State) : (s.refuse).toNblk = s.toNblk := rfl
@[simp] theorem State.refuse_toBlk (s : State) : (s.refuse).toBlk = s.toBlk := rfl
@[simp] theorem State.refuse_toOff (s : State) : (s.refuse).toOff = s.toOff := rfl
@[simp] theorem State.refuse_buf (s : State) : (s.refuse).buf = s.buf := rfl
@[simp] theorem State.refuse_tmo (s : State) : (s.refuse).tmo = s.tmo := rfl
@[simp] theorem State.refuse_tmoErase (s : State) : (s.refuse).tmoErase = s.tmoErase := rfl
@[simp] theorem State.refuse_tmoProg (s : State) : (s.refuse).tmoProg = s.tmoProg := rfl
@[simp] theorem State.refuse_tmoLink2 (s : State) : (s.refuse).tmoLink2 = s.tmoLink2 := rfl
@[simp] theorem State.refuse_req (s : State) : (s.refuse).req = s.req := rfl
@[simp] theorem State.refuse_tasks (s : State) : (s.refuse).tasks = [] := rfl
@[simp] theorem State.refuse_ws (s : State) : (s.refuse).ws = s.ws := rfl
@[simp] theorem State.refuse_result (s : State) : (s.refuse).result = .refused := rfl
@[simp] theorem State.refuse_sunk (s : State) : (s.refuse).sunk = s.sunk := rfl
@[simp] theorem State.refuse_target (s : State) : (s.refuse).target = s.target := rfl
@[simp] theorem State.refuse_turns (s : State) : (s.refuse).turns = s.turns := rfl
@[simp] theorem State.refuse_dd (s : State) : (s.refuse).dd = s.dd := rfl
@[simp] theorem State.refuse_clock (s : State) : (s.refuse).clock = s.clock := rfl

/-! `raise`: a failure -/

@[simp] theorem State.raise_cfg (s : State) (f : Failure) : (s.raise f).cfg = s.cfg := rfl
@[simp] theorem State.raise_pinsOut (s : State) (f : Failure) : (s.raise f).pinsOut = s.pinsOut := rfl
@[simp] theorem State.raise_pinsOe (s : State) (f : Failure) : (s.raise f).pinsOe = s.pinsOe := rfl
@[simp] theorem State.raise_life (s : State) (f : Failure) : (s.raise f).life = s.life := rfl
@[simp] theorem State.raise_leDone (s : State) (f : Failure) : (s.raise f).leDone = s.leDone := rfl
@[simp] theorem State.raise_variant (s : State) (f : Failure) : (s.raise f).variant = s.variant := rfl
@[simp] theorem State.raise_phase (s : State) (f : Failure) : (s.raise f).phase = s.phase := rfl
@[simp] theorem State.raise_osr (s : State) (f : Failure) : (s.raise f).osr = s.osr := rfl
@[simp] theorem State.raise_osrb (s : State) (f : Failure) : (s.raise f).osrb = s.osrb := rfl
@[simp] theorem State.raise_opc (s : State) (f : Failure) : (s.raise f).opc = s.opc := rfl
@[simp] theorem State.raise_txseg (s : State) (f : Failure) : (s.raise f).txseg = s.txseg := rfl
@[simp] theorem State.raise_bitcnt (s : State) (f : Failure) : (s.raise f).bitcnt = s.bitcnt := rfl
@[simp] theorem State.raise_wcnt (s : State) (f : Failure) : (s.raise f).wcnt = s.wcnt := rfl
@[simp] theorem State.raise_rcnt (s : State) (f : Failure) : (s.raise f).rcnt = s.rcnt := rfl
@[simp] theorem State.raise_isr (s : State) (f : Failure) : (s.raise f).isr = s.isr := rfl
@[simp] theorem State.raise_nr (s : State) (f : Failure) : (s.raise f).nr = s.nr := rfl
@[simp] theorem State.raise_holdcnt (s : State) (f : Failure) : (s.raise f).holdcnt = s.holdcnt := rfl
@[simp] theorem State.raise_falls (s : State) (f : Failure) : (s.raise f).falls = s.falls := rfl
@[simp] theorem State.raise_txf (s : State) (f : Failure) : (s.raise f).txf = s.txf := rfl
@[simp] theorem State.raise_rxf (s : State) (f : Failure) : (s.raise f).rxf = s.rxf := rfl
@[simp] theorem State.raise_owner (s : State) (f : Failure) : (s.raise f).owner = s.owner := rfl
@[simp] theorem State.raise_chipState (s : State) (f : Failure) : (s.raise f).chipState = s.chipState := rfl
@[simp] theorem State.raise_chipId (s : State) (f : Failure) : (s.raise f).chipId = s.chipId := rfl
@[simp] theorem State.raise_chipRev (s : State) (f : Failure) : (s.raise f).chipRev = s.chipRev := rfl
@[simp] theorem State.raise_chipName (s : State) (f : Failure) : (s.raise f).chipName = s.chipName := rfl
@[simp] theorem State.raise_dmaEnabled (s : State) (f : Failure) : (s.raise f).dmaEnabled = s.dmaEnabled := rfl
@[simp] theorem State.raise_fpState (s : State) (f : Failure) : (s.raise f).fpState = if s.fpState = .done then .done else .failed := rfl
@[simp] theorem State.raise_fpLen (s : State) (f : Failure) : (s.raise f).fpLen = s.fpLen := rfl
@[simp] theorem State.raise_err (s : State) (f : Failure) : (s.raise f).err = f.code := rfl
@[simp] theorem State.raise_eoi (s : State) (f : Failure) : (s.raise f).eoi = s.eoi := rfl
@[simp] theorem State.raise_toMode (s : State) (f : Failure) : (s.raise f).toMode = s.toMode := rfl
@[simp] theorem State.raise_toNblk (s : State) (f : Failure) : (s.raise f).toNblk = s.toNblk := rfl
@[simp] theorem State.raise_toBlk (s : State) (f : Failure) : (s.raise f).toBlk = s.toBlk := rfl
@[simp] theorem State.raise_toOff (s : State) (f : Failure) : (s.raise f).toOff = s.toOff := rfl
@[simp] theorem State.raise_buf (s : State) (f : Failure) : (s.raise f).buf = s.buf := rfl
@[simp] theorem State.raise_tmo (s : State) (f : Failure) : (s.raise f).tmo = s.tmo := rfl
@[simp] theorem State.raise_tmoErase (s : State) (f : Failure) : (s.raise f).tmoErase = s.tmoErase := rfl
@[simp] theorem State.raise_tmoProg (s : State) (f : Failure) : (s.raise f).tmoProg = s.tmoProg := rfl
@[simp] theorem State.raise_tmoLink2 (s : State) (f : Failure) : (s.raise f).tmoLink2 = s.tmoLink2 := rfl
@[simp] theorem State.raise_req (s : State) (f : Failure) : (s.raise f).req = s.req := rfl
@[simp] theorem State.raise_tasks (s : State) (f : Failure) : (s.raise f).tasks = [] := rfl
@[simp] theorem State.raise_ws (s : State) (f : Failure) : (s.raise f).ws = s.ws := rfl
@[simp] theorem State.raise_result (s : State) (f : Failure) : (s.raise f).result = .failed f := rfl
@[simp] theorem State.raise_sunk (s : State) (f : Failure) : (s.raise f).sunk = s.sunk := rfl
@[simp] theorem State.raise_target (s : State) (f : Failure) : (s.raise f).target = s.target.afterFailure s.clock f := rfl
@[simp] theorem State.raise_turns (s : State) (f : Failure) : (s.raise f).turns = s.turns := rfl
@[simp] theorem State.raise_dd (s : State) (f : Failure) : (s.raise f).dd = s.dd := rfl
@[simp] theorem State.raise_clock (s : State) (f : Failure) : (s.raise f).clock = s.clock := rfl

/-! `drive`: a change of the pins -/

@[simp] theorem State.drive_cfg (s : State) (o e : BitVec 3) : (s.drive o e).cfg = s.cfg := rfl
@[simp] theorem State.drive_pinsOut (s : State) (o e : BitVec 3) : (s.drive o e).pinsOut = o := rfl
@[simp] theorem State.drive_pinsOe (s : State) (o e : BitVec 3) : (s.drive o e).pinsOe = e := rfl
@[simp] theorem State.drive_life (s : State) (o e : BitVec 3) : (s.drive o e).life = s.life := rfl
@[simp] theorem State.drive_leDone (s : State) (o e : BitVec 3) : (s.drive o e).leDone = s.leDone := rfl
@[simp] theorem State.drive_variant (s : State) (o e : BitVec 3) : (s.drive o e).variant = s.variant := rfl
@[simp] theorem State.drive_phase (s : State) (o e : BitVec 3) : (s.drive o e).phase = s.phase := rfl
@[simp] theorem State.drive_osr (s : State) (o e : BitVec 3) : (s.drive o e).osr = s.osr := rfl
@[simp] theorem State.drive_osrb (s : State) (o e : BitVec 3) : (s.drive o e).osrb = s.osrb := rfl
@[simp] theorem State.drive_opc (s : State) (o e : BitVec 3) : (s.drive o e).opc = s.opc := rfl
@[simp] theorem State.drive_txseg (s : State) (o e : BitVec 3) : (s.drive o e).txseg = s.txseg := rfl
@[simp] theorem State.drive_bitcnt (s : State) (o e : BitVec 3) : (s.drive o e).bitcnt = s.bitcnt := rfl
@[simp] theorem State.drive_wcnt (s : State) (o e : BitVec 3) : (s.drive o e).wcnt = s.wcnt := rfl
@[simp] theorem State.drive_rcnt (s : State) (o e : BitVec 3) : (s.drive o e).rcnt = s.rcnt := rfl
@[simp] theorem State.drive_isr (s : State) (o e : BitVec 3) : (s.drive o e).isr = s.isr := rfl
@[simp] theorem State.drive_nr (s : State) (o e : BitVec 3) : (s.drive o e).nr = s.nr := rfl
@[simp] theorem State.drive_holdcnt (s : State) (o e : BitVec 3) : (s.drive o e).holdcnt = s.holdcnt := rfl
@[simp] theorem State.drive_falls (s : State) (o e : BitVec 3) : (s.drive o e).falls = s.falls := rfl
@[simp] theorem State.drive_txf (s : State) (o e : BitVec 3) : (s.drive o e).txf = s.txf := rfl
@[simp] theorem State.drive_rxf (s : State) (o e : BitVec 3) : (s.drive o e).rxf = s.rxf := rfl
@[simp] theorem State.drive_owner (s : State) (o e : BitVec 3) : (s.drive o e).owner = s.owner := rfl
@[simp] theorem State.drive_chipState (s : State) (o e : BitVec 3) : (s.drive o e).chipState = s.chipState := rfl
@[simp] theorem State.drive_chipId (s : State) (o e : BitVec 3) : (s.drive o e).chipId = s.chipId := rfl
@[simp] theorem State.drive_chipRev (s : State) (o e : BitVec 3) : (s.drive o e).chipRev = s.chipRev := rfl
@[simp] theorem State.drive_chipName (s : State) (o e : BitVec 3) : (s.drive o e).chipName = s.chipName := rfl
@[simp] theorem State.drive_dmaEnabled (s : State) (o e : BitVec 3) : (s.drive o e).dmaEnabled = s.dmaEnabled := rfl
@[simp] theorem State.drive_fpState (s : State) (o e : BitVec 3) : (s.drive o e).fpState = s.fpState := rfl
@[simp] theorem State.drive_fpLen (s : State) (o e : BitVec 3) : (s.drive o e).fpLen = s.fpLen := rfl
@[simp] theorem State.drive_err (s : State) (o e : BitVec 3) : (s.drive o e).err = s.err := rfl
@[simp] theorem State.drive_eoi (s : State) (o e : BitVec 3) : (s.drive o e).eoi = s.eoi := rfl
@[simp] theorem State.drive_toMode (s : State) (o e : BitVec 3) : (s.drive o e).toMode = s.toMode := rfl
@[simp] theorem State.drive_toNblk (s : State) (o e : BitVec 3) : (s.drive o e).toNblk = s.toNblk := rfl
@[simp] theorem State.drive_toBlk (s : State) (o e : BitVec 3) : (s.drive o e).toBlk = s.toBlk := rfl
@[simp] theorem State.drive_toOff (s : State) (o e : BitVec 3) : (s.drive o e).toOff = s.toOff := rfl
@[simp] theorem State.drive_buf (s : State) (o e : BitVec 3) : (s.drive o e).buf = s.buf := rfl
@[simp] theorem State.drive_tmo (s : State) (o e : BitVec 3) : (s.drive o e).tmo = s.tmo := rfl
@[simp] theorem State.drive_tmoErase (s : State) (o e : BitVec 3) : (s.drive o e).tmoErase = s.tmoErase := rfl
@[simp] theorem State.drive_tmoProg (s : State) (o e : BitVec 3) : (s.drive o e).tmoProg = s.tmoProg := rfl
@[simp] theorem State.drive_tmoLink2 (s : State) (o e : BitVec 3) : (s.drive o e).tmoLink2 = s.tmoLink2 := rfl
@[simp] theorem State.drive_req (s : State) (o e : BitVec 3) : (s.drive o e).req = s.req := rfl
@[simp] theorem State.drive_tasks (s : State) (o e : BitVec 3) : (s.drive o e).tasks = s.tasks := rfl
@[simp] theorem State.drive_ws (s : State) (o e : BitVec 3) : (s.drive o e).ws = s.ws := rfl
@[simp] theorem State.drive_result (s : State) (o e : BitVec 3) : (s.drive o e).result = s.result := rfl
@[simp] theorem State.drive_sunk (s : State) (o e : BitVec 3) : (s.drive o e).sunk = s.sunk := rfl
@[simp] theorem State.drive_target (s : State) (o e : BitVec 3) : (s.drive o e).target = s.target.sees s.clock s.pinsOut s.pinsOe o e := rfl
@[simp] theorem State.drive_turns (s : State) (o e : BitVec 3) : (s.drive o e).turns = s.turns := rfl
@[simp] theorem State.drive_dd (s : State) (o e : BitVec 3) : (s.drive o e).dd = s.dd := rfl
@[simp] theorem State.drive_clock (s : State) (o e : BitVec 3) : (s.drive o e).clock = s.clock := rfl

/-! `load`: LE.LOAD -/

@[simp] theorem State.load_cfg (s : State) (v : Variant) : (s.load v).cfg = s.cfg := rfl
@[simp] theorem State.load_pinsOut (s : State) (v : Variant) : (s.load v).pinsOut = s.pinsOut := rfl
@[simp] theorem State.load_pinsOe (s : State) (v : Variant) : (s.load v).pinsOe = s.pinsOe := rfl
@[simp] theorem State.load_life (s : State) (v : Variant) : (s.load v).life = .loaded := rfl
@[simp] theorem State.load_leDone (s : State) (v : Variant) : (s.load v).leDone = s.leDone := rfl
@[simp] theorem State.load_variant (s : State) (v : Variant) : (s.load v).variant = v := rfl
@[simp] theorem State.load_phase (s : State) (v : Variant) : (s.load v).phase = s.phase := rfl
@[simp] theorem State.load_osr (s : State) (v : Variant) : (s.load v).osr = s.osr := rfl
@[simp] theorem State.load_osrb (s : State) (v : Variant) : (s.load v).osrb = s.osrb := rfl
@[simp] theorem State.load_opc (s : State) (v : Variant) : (s.load v).opc = s.opc := rfl
@[simp] theorem State.load_txseg (s : State) (v : Variant) : (s.load v).txseg = s.txseg := rfl
@[simp] theorem State.load_bitcnt (s : State) (v : Variant) : (s.load v).bitcnt = s.bitcnt := rfl
@[simp] theorem State.load_wcnt (s : State) (v : Variant) : (s.load v).wcnt = s.wcnt := rfl
@[simp] theorem State.load_rcnt (s : State) (v : Variant) : (s.load v).rcnt = s.rcnt := rfl
@[simp] theorem State.load_isr (s : State) (v : Variant) : (s.load v).isr = s.isr := rfl
@[simp] theorem State.load_nr (s : State) (v : Variant) : (s.load v).nr = s.nr := rfl
@[simp] theorem State.load_holdcnt (s : State) (v : Variant) : (s.load v).holdcnt = s.holdcnt := rfl
@[simp] theorem State.load_falls (s : State) (v : Variant) : (s.load v).falls = s.falls := rfl
@[simp] theorem State.load_txf (s : State) (v : Variant) : (s.load v).txf = s.txf := rfl
@[simp] theorem State.load_rxf (s : State) (v : Variant) : (s.load v).rxf = s.rxf := rfl
@[simp] theorem State.load_owner (s : State) (v : Variant) : (s.load v).owner = s.owner := rfl
@[simp] theorem State.load_chipState (s : State) (v : Variant) : (s.load v).chipState = s.chipState := rfl
@[simp] theorem State.load_chipId (s : State) (v : Variant) : (s.load v).chipId = s.chipId := rfl
@[simp] theorem State.load_chipRev (s : State) (v : Variant) : (s.load v).chipRev = s.chipRev := rfl
@[simp] theorem State.load_chipName (s : State) (v : Variant) : (s.load v).chipName = s.chipName := rfl
@[simp] theorem State.load_dmaEnabled (s : State) (v : Variant) : (s.load v).dmaEnabled = s.dmaEnabled := rfl
@[simp] theorem State.load_fpState (s : State) (v : Variant) : (s.load v).fpState = s.fpState := rfl
@[simp] theorem State.load_fpLen (s : State) (v : Variant) : (s.load v).fpLen = s.fpLen := rfl
@[simp] theorem State.load_err (s : State) (v : Variant) : (s.load v).err = s.err := rfl
@[simp] theorem State.load_eoi (s : State) (v : Variant) : (s.load v).eoi = s.eoi := rfl
@[simp] theorem State.load_toMode (s : State) (v : Variant) : (s.load v).toMode = s.toMode := rfl
@[simp] theorem State.load_toNblk (s : State) (v : Variant) : (s.load v).toNblk = s.toNblk := rfl
@[simp] theorem State.load_toBlk (s : State) (v : Variant) : (s.load v).toBlk = s.toBlk := rfl
@[simp] theorem State.load_toOff (s : State) (v : Variant) : (s.load v).toOff = s.toOff := rfl
@[simp] theorem State.load_buf (s : State) (v : Variant) : (s.load v).buf = s.buf := rfl
@[simp] theorem State.load_tmo (s : State) (v : Variant) : (s.load v).tmo = s.tmo := rfl
@[simp] theorem State.load_tmoErase (s : State) (v : Variant) : (s.load v).tmoErase = s.tmoErase := rfl
@[simp] theorem State.load_tmoProg (s : State) (v : Variant) : (s.load v).tmoProg = s.tmoProg := rfl
@[simp] theorem State.load_tmoLink2 (s : State) (v : Variant) : (s.load v).tmoLink2 = s.tmoLink2 := rfl
@[simp] theorem State.load_req (s : State) (v : Variant) : (s.load v).req = s.req := rfl
@[simp] theorem State.load_tasks (s : State) (v : Variant) : (s.load v).tasks = s.tasks := rfl
@[simp] theorem State.load_ws (s : State) (v : Variant) : (s.load v).ws = s.ws := rfl
@[simp] theorem State.load_result (s : State) (v : Variant) : (s.load v).result = s.result := rfl
@[simp] theorem State.load_sunk (s : State) (v : Variant) : (s.load v).sunk = s.sunk := rfl
@[simp] theorem State.load_target (s : State) (v : Variant) : (s.load v).target = s.target := rfl
@[simp] theorem State.load_turns (s : State) (v : Variant) : (s.load v).turns = s.turns := rfl
@[simp] theorem State.load_dd (s : State) (v : Variant) : (s.load v).dd = s.dd := rfl
@[simp] theorem State.load_clock (s : State) (v : Variant) : (s.load v).clock = s.clock := rfl

/-! `start`: LE.START -/

@[simp] theorem State.start_cfg (s : State) : (s.start).cfg = s.cfg := rfl
@[simp] theorem State.start_pinsOut (s : State) : (s.start).pinsOut = s.pinsOut := rfl
@[simp] theorem State.start_pinsOe (s : State) : (s.start).pinsOe = s.pinsOe := rfl
@[simp] theorem State.start_life (s : State) : (s.start).life = .running := rfl
@[simp] theorem State.start_leDone (s : State) : (s.start).leDone = false := rfl
@[simp] theorem State.start_variant (s : State) : (s.start).variant = s.variant := rfl
@[simp] theorem State.start_phase (s : State) : (s.start).phase = if s.variant = .vAttach then .atAssert else .cIdle := rfl
@[simp] theorem State.start_osr (s : State) : (s.start).osr = s.osr := rfl
@[simp] theorem State.start_osrb (s : State) : (s.start).osrb = s.osrb := rfl
@[simp] theorem State.start_opc (s : State) : (s.start).opc = s.opc := rfl
@[simp] theorem State.start_txseg (s : State) : (s.start).txseg = s.txseg := rfl
@[simp] theorem State.start_bitcnt (s : State) : (s.start).bitcnt = s.bitcnt := rfl
@[simp] theorem State.start_wcnt (s : State) : (s.start).wcnt = s.wcnt := rfl
@[simp] theorem State.start_rcnt (s : State) : (s.start).rcnt = s.rcnt := rfl
@[simp] theorem State.start_isr (s : State) : (s.start).isr = s.isr := rfl
@[simp] theorem State.start_nr (s : State) : (s.start).nr = s.nr := rfl
@[simp] theorem State.start_holdcnt (s : State) : (s.start).holdcnt = s.holdcnt := rfl
@[simp] theorem State.start_falls (s : State) : (s.start).falls = s.falls := rfl
@[simp] theorem State.start_txf (s : State) : (s.start).txf = s.txf := rfl
@[simp] theorem State.start_rxf (s : State) : (s.start).rxf = s.rxf := rfl
@[simp] theorem State.start_owner (s : State) : (s.start).owner = s.owner := rfl
@[simp] theorem State.start_chipState (s : State) : (s.start).chipState = s.chipState := rfl
@[simp] theorem State.start_chipId (s : State) : (s.start).chipId = s.chipId := rfl
@[simp] theorem State.start_chipRev (s : State) : (s.start).chipRev = s.chipRev := rfl
@[simp] theorem State.start_chipName (s : State) : (s.start).chipName = s.chipName := rfl
@[simp] theorem State.start_dmaEnabled (s : State) : (s.start).dmaEnabled = s.dmaEnabled := rfl
@[simp] theorem State.start_fpState (s : State) : (s.start).fpState = s.fpState := rfl
@[simp] theorem State.start_fpLen (s : State) : (s.start).fpLen = s.fpLen := rfl
@[simp] theorem State.start_err (s : State) : (s.start).err = s.err := rfl
@[simp] theorem State.start_eoi (s : State) : (s.start).eoi = s.eoi := rfl
@[simp] theorem State.start_toMode (s : State) : (s.start).toMode = s.toMode := rfl
@[simp] theorem State.start_toNblk (s : State) : (s.start).toNblk = s.toNblk := rfl
@[simp] theorem State.start_toBlk (s : State) : (s.start).toBlk = s.toBlk := rfl
@[simp] theorem State.start_toOff (s : State) : (s.start).toOff = s.toOff := rfl
@[simp] theorem State.start_buf (s : State) : (s.start).buf = s.buf := rfl
@[simp] theorem State.start_tmo (s : State) : (s.start).tmo = s.tmo := rfl
@[simp] theorem State.start_tmoErase (s : State) : (s.start).tmoErase = s.tmoErase := rfl
@[simp] theorem State.start_tmoProg (s : State) : (s.start).tmoProg = s.tmoProg := rfl
@[simp] theorem State.start_tmoLink2 (s : State) : (s.start).tmoLink2 = s.tmoLink2 := rfl
@[simp] theorem State.start_req (s : State) : (s.start).req = s.req := rfl
@[simp] theorem State.start_tasks (s : State) : (s.start).tasks = s.tasks := rfl
@[simp] theorem State.start_ws (s : State) : (s.start).ws = s.ws := rfl
@[simp] theorem State.start_result (s : State) : (s.start).result = s.result := rfl
@[simp] theorem State.start_sunk (s : State) : (s.start).sunk = s.sunk := rfl
@[simp] theorem State.start_target (s : State) : (s.start).target = s.target := rfl
@[simp] theorem State.start_turns (s : State) : (s.start).turns = s.turns := rfl
@[simp] theorem State.start_dd (s : State) : (s.start).dd = s.dd := rfl
@[simp] theorem State.start_clock (s : State) : (s.start).clock = s.clock := rfl

/-! `deinit`: LE.DEINIT -/

@[simp] theorem State.deinit_cfg (s : State) : (s.deinit).cfg = s.cfg := rfl
@[simp] theorem State.deinit_pinsOut (s : State) : (s.deinit).pinsOut = s.pinsOut := rfl
@[simp] theorem State.deinit_pinsOe (s : State) : (s.deinit).pinsOe = s.pinsOe := rfl
@[simp] theorem State.deinit_life (s : State) : (s.deinit).life = .unloaded := rfl
@[simp] theorem State.deinit_leDone (s : State) : (s.deinit).leDone = s.leDone := rfl
@[simp] theorem State.deinit_variant (s : State) : (s.deinit).variant = .vNone := rfl
@[simp] theorem State.deinit_phase (s : State) : (s.deinit).phase = s.phase := rfl
@[simp] theorem State.deinit_osr (s : State) : (s.deinit).osr = s.osr := rfl
@[simp] theorem State.deinit_osrb (s : State) : (s.deinit).osrb = s.osrb := rfl
@[simp] theorem State.deinit_opc (s : State) : (s.deinit).opc = s.opc := rfl
@[simp] theorem State.deinit_txseg (s : State) : (s.deinit).txseg = s.txseg := rfl
@[simp] theorem State.deinit_bitcnt (s : State) : (s.deinit).bitcnt = s.bitcnt := rfl
@[simp] theorem State.deinit_wcnt (s : State) : (s.deinit).wcnt = s.wcnt := rfl
@[simp] theorem State.deinit_rcnt (s : State) : (s.deinit).rcnt = s.rcnt := rfl
@[simp] theorem State.deinit_isr (s : State) : (s.deinit).isr = s.isr := rfl
@[simp] theorem State.deinit_nr (s : State) : (s.deinit).nr = s.nr := rfl
@[simp] theorem State.deinit_holdcnt (s : State) : (s.deinit).holdcnt = s.holdcnt := rfl
@[simp] theorem State.deinit_falls (s : State) : (s.deinit).falls = s.falls := rfl
@[simp] theorem State.deinit_txf (s : State) : (s.deinit).txf = s.txf := rfl
@[simp] theorem State.deinit_rxf (s : State) : (s.deinit).rxf = s.rxf := rfl
@[simp] theorem State.deinit_owner (s : State) : (s.deinit).owner = s.owner := rfl
@[simp] theorem State.deinit_chipState (s : State) : (s.deinit).chipState = s.chipState := rfl
@[simp] theorem State.deinit_chipId (s : State) : (s.deinit).chipId = s.chipId := rfl
@[simp] theorem State.deinit_chipRev (s : State) : (s.deinit).chipRev = s.chipRev := rfl
@[simp] theorem State.deinit_chipName (s : State) : (s.deinit).chipName = s.chipName := rfl
@[simp] theorem State.deinit_dmaEnabled (s : State) : (s.deinit).dmaEnabled = s.dmaEnabled := rfl
@[simp] theorem State.deinit_fpState (s : State) : (s.deinit).fpState = s.fpState := rfl
@[simp] theorem State.deinit_fpLen (s : State) : (s.deinit).fpLen = s.fpLen := rfl
@[simp] theorem State.deinit_err (s : State) : (s.deinit).err = s.err := rfl
@[simp] theorem State.deinit_eoi (s : State) : (s.deinit).eoi = s.eoi := rfl
@[simp] theorem State.deinit_toMode (s : State) : (s.deinit).toMode = s.toMode := rfl
@[simp] theorem State.deinit_toNblk (s : State) : (s.deinit).toNblk = s.toNblk := rfl
@[simp] theorem State.deinit_toBlk (s : State) : (s.deinit).toBlk = s.toBlk := rfl
@[simp] theorem State.deinit_toOff (s : State) : (s.deinit).toOff = s.toOff := rfl
@[simp] theorem State.deinit_buf (s : State) : (s.deinit).buf = s.buf := rfl
@[simp] theorem State.deinit_tmo (s : State) : (s.deinit).tmo = s.tmo := rfl
@[simp] theorem State.deinit_tmoErase (s : State) : (s.deinit).tmoErase = s.tmoErase := rfl
@[simp] theorem State.deinit_tmoProg (s : State) : (s.deinit).tmoProg = s.tmoProg := rfl
@[simp] theorem State.deinit_tmoLink2 (s : State) : (s.deinit).tmoLink2 = s.tmoLink2 := rfl
@[simp] theorem State.deinit_req (s : State) : (s.deinit).req = s.req := rfl
@[simp] theorem State.deinit_tasks (s : State) : (s.deinit).tasks = s.tasks := rfl
@[simp] theorem State.deinit_ws (s : State) : (s.deinit).ws = s.ws := rfl
@[simp] theorem State.deinit_result (s : State) : (s.deinit).result = s.result := rfl
@[simp] theorem State.deinit_sunk (s : State) : (s.deinit).sunk = s.sunk := rfl
@[simp] theorem State.deinit_target (s : State) : (s.deinit).target = s.target := rfl
@[simp] theorem State.deinit_turns (s : State) : (s.deinit).turns = s.turns := rfl
@[simp] theorem State.deinit_dd (s : State) : (s.deinit).dd = s.dd := rfl
@[simp] theorem State.deinit_clock (s : State) : (s.deinit).clock = s.clock := rfl

/-! `abort`: LE.ABORT -/

@[simp] theorem State.abort_cfg (s : State) : (s.abort).cfg = s.cfg := rfl
@[simp] theorem State.abort_pinsOut (s : State) : (s.abort).pinsOut = s.abortOut := rfl
@[simp] theorem State.abort_pinsOe (s : State) : (s.abort).pinsOe = setLine s.pinsOe 0 false := rfl
@[simp] theorem State.abort_life (s : State) : (s.abort).life = s.life := rfl
@[simp] theorem State.abort_leDone (s : State) : (s.abort).leDone = if s.variant = .vAttach then false else s.leDone := rfl
@[simp] theorem State.abort_variant (s : State) : (s.abort).variant = s.variant := rfl
@[simp] theorem State.abort_phase (s : State) : (s.abort).phase = if s.variant = .vAttach then .atDone else .cIdle := rfl
@[simp] theorem State.abort_osr (s : State) : (s.abort).osr = Reg.unwritten 0#32 := rfl
@[simp] theorem State.abort_osrb (s : State) : (s.abort).osrb = Reg.unwritten 0#3 := rfl
@[simp] theorem State.abort_opc (s : State) : (s.abort).opc = Reg.unwritten 0#8 := rfl
@[simp] theorem State.abort_txseg (s : State) : (s.abort).txseg = Reg.unwritten .segOp := rfl
@[simp] theorem State.abort_bitcnt (s : State) : (s.abort).bitcnt = Reg.unwritten 0#4 := rfl
@[simp] theorem State.abort_wcnt (s : State) : (s.abort).wcnt = Reg.unwritten 0#16 := rfl
@[simp] theorem State.abort_rcnt (s : State) : (s.abort).rcnt = Reg.unwritten 0#16 := rfl
@[simp] theorem State.abort_isr (s : State) : (s.abort).isr = Reg.unwritten 0#8 := rfl
@[simp] theorem State.abort_nr (s : State) : (s.abort).nr = Reg.unwritten false := rfl
@[simp] theorem State.abort_holdcnt (s : State) : (s.abort).holdcnt = Reg.unwritten 0 := rfl
@[simp] theorem State.abort_falls (s : State) : (s.abort).falls = Reg.unwritten 0#2 := rfl
@[simp] theorem State.abort_txf (s : State) : (s.abort).txf = [] := rfl
@[simp] theorem State.abort_rxf (s : State) : (s.abort).rxf = [] := rfl
@[simp] theorem State.abort_owner (s : State) : (s.abort).owner = s.owner := rfl
@[simp] theorem State.abort_chipState (s : State) : (s.abort).chipState = s.chipState := rfl
@[simp] theorem State.abort_chipId (s : State) : (s.abort).chipId = s.chipId := rfl
@[simp] theorem State.abort_chipRev (s : State) : (s.abort).chipRev = s.chipRev := rfl
@[simp] theorem State.abort_chipName (s : State) : (s.abort).chipName = s.chipName := rfl
@[simp] theorem State.abort_dmaEnabled (s : State) : (s.abort).dmaEnabled = s.dmaEnabled := rfl
@[simp] theorem State.abort_fpState (s : State) : (s.abort).fpState = s.fpState := rfl
@[simp] theorem State.abort_fpLen (s : State) : (s.abort).fpLen = s.fpLen := rfl
@[simp] theorem State.abort_err (s : State) : (s.abort).err = s.err := rfl
@[simp] theorem State.abort_eoi (s : State) : (s.abort).eoi = s.eoi := rfl
@[simp] theorem State.abort_toMode (s : State) : (s.abort).toMode = s.toMode := rfl
@[simp] theorem State.abort_toNblk (s : State) : (s.abort).toNblk = s.toNblk := rfl
@[simp] theorem State.abort_toBlk (s : State) : (s.abort).toBlk = s.toBlk := rfl
@[simp] theorem State.abort_toOff (s : State) : (s.abort).toOff = s.toOff := rfl
@[simp] theorem State.abort_buf (s : State) : (s.abort).buf = s.buf := rfl
@[simp] theorem State.abort_tmo (s : State) : (s.abort).tmo = s.tmo := rfl
@[simp] theorem State.abort_tmoErase (s : State) : (s.abort).tmoErase = s.tmoErase := rfl
@[simp] theorem State.abort_tmoProg (s : State) : (s.abort).tmoProg = s.tmoProg := rfl
@[simp] theorem State.abort_tmoLink2 (s : State) : (s.abort).tmoLink2 = s.tmoLink2 := rfl
@[simp] theorem State.abort_req (s : State) : (s.abort).req = s.req := rfl
@[simp] theorem State.abort_tasks (s : State) : (s.abort).tasks = s.tasks := rfl
@[simp] theorem State.abort_ws (s : State) : (s.abort).ws = s.ws := rfl
@[simp] theorem State.abort_result (s : State) : (s.abort).result = s.result := rfl
@[simp] theorem State.abort_sunk (s : State) : (s.abort).sunk = s.sunk := rfl
@[simp] theorem State.abort_turns (s : State) : (s.abort).turns = s.turns := rfl
@[simp] theorem State.abort_dd (s : State) : (s.abort).dd = s.dd := rfl
@[simp] theorem State.abort_clock (s : State) : (s.abort).clock = s.clock := rfl

/-! `stop`: LE.STOP -/

@[simp] theorem State.stop_cfg (s : State) : (s.stop).cfg = s.cfg := rfl
@[simp] theorem State.stop_pinsOut (s : State) : (s.stop).pinsOut = s.abortOut := rfl
@[simp] theorem State.stop_pinsOe (s : State) : (s.stop).pinsOe = setLine s.pinsOe 0 false := rfl
@[simp] theorem State.stop_life (s : State) : (s.stop).life = .loaded := rfl
@[simp] theorem State.stop_leDone (s : State) : (s.stop).leDone = if s.variant = .vAttach then false else s.leDone := rfl
@[simp] theorem State.stop_variant (s : State) : (s.stop).variant = s.variant := rfl
@[simp] theorem State.stop_phase (s : State) : (s.stop).phase = .pStopped := rfl
@[simp] theorem State.stop_osr (s : State) : (s.stop).osr = Reg.unwritten 0#32 := rfl
@[simp] theorem State.stop_osrb (s : State) : (s.stop).osrb = Reg.unwritten 0#3 := rfl
@[simp] theorem State.stop_opc (s : State) : (s.stop).opc = Reg.unwritten 0#8 := rfl
@[simp] theorem State.stop_txseg (s : State) : (s.stop).txseg = Reg.unwritten .segOp := rfl
@[simp] theorem State.stop_bitcnt (s : State) : (s.stop).bitcnt = Reg.unwritten 0#4 := rfl
@[simp] theorem State.stop_wcnt (s : State) : (s.stop).wcnt = Reg.unwritten 0#16 := rfl
@[simp] theorem State.stop_rcnt (s : State) : (s.stop).rcnt = Reg.unwritten 0#16 := rfl
@[simp] theorem State.stop_isr (s : State) : (s.stop).isr = Reg.unwritten 0#8 := rfl
@[simp] theorem State.stop_nr (s : State) : (s.stop).nr = Reg.unwritten false := rfl
@[simp] theorem State.stop_holdcnt (s : State) : (s.stop).holdcnt = Reg.unwritten 0 := rfl
@[simp] theorem State.stop_falls (s : State) : (s.stop).falls = Reg.unwritten 0#2 := rfl
@[simp] theorem State.stop_txf (s : State) : (s.stop).txf = [] := rfl
@[simp] theorem State.stop_rxf (s : State) : (s.stop).rxf = [] := rfl
@[simp] theorem State.stop_owner (s : State) : (s.stop).owner = s.owner := rfl
@[simp] theorem State.stop_chipState (s : State) : (s.stop).chipState = s.chipState := rfl
@[simp] theorem State.stop_chipId (s : State) : (s.stop).chipId = s.chipId := rfl
@[simp] theorem State.stop_chipRev (s : State) : (s.stop).chipRev = s.chipRev := rfl
@[simp] theorem State.stop_chipName (s : State) : (s.stop).chipName = s.chipName := rfl
@[simp] theorem State.stop_dmaEnabled (s : State) : (s.stop).dmaEnabled = s.dmaEnabled := rfl
@[simp] theorem State.stop_fpState (s : State) : (s.stop).fpState = s.fpState := rfl
@[simp] theorem State.stop_fpLen (s : State) : (s.stop).fpLen = s.fpLen := rfl
@[simp] theorem State.stop_err (s : State) : (s.stop).err = s.err := rfl
@[simp] theorem State.stop_eoi (s : State) : (s.stop).eoi = s.eoi := rfl
@[simp] theorem State.stop_toMode (s : State) : (s.stop).toMode = s.toMode := rfl
@[simp] theorem State.stop_toNblk (s : State) : (s.stop).toNblk = s.toNblk := rfl
@[simp] theorem State.stop_toBlk (s : State) : (s.stop).toBlk = s.toBlk := rfl
@[simp] theorem State.stop_toOff (s : State) : (s.stop).toOff = s.toOff := rfl
@[simp] theorem State.stop_buf (s : State) : (s.stop).buf = s.buf := rfl
@[simp] theorem State.stop_tmo (s : State) : (s.stop).tmo = s.tmo := rfl
@[simp] theorem State.stop_tmoErase (s : State) : (s.stop).tmoErase = s.tmoErase := rfl
@[simp] theorem State.stop_tmoProg (s : State) : (s.stop).tmoProg = s.tmoProg := rfl
@[simp] theorem State.stop_tmoLink2 (s : State) : (s.stop).tmoLink2 = s.tmoLink2 := rfl
@[simp] theorem State.stop_req (s : State) : (s.stop).req = s.req := rfl
@[simp] theorem State.stop_tasks (s : State) : (s.stop).tasks = s.tasks := rfl
@[simp] theorem State.stop_ws (s : State) : (s.stop).ws = s.ws := rfl
@[simp] theorem State.stop_result (s : State) : (s.stop).result = s.result := rfl
@[simp] theorem State.stop_sunk (s : State) : (s.stop).sunk = s.sunk := rfl
@[simp] theorem State.stop_target (s : State) : (s.stop).target = s.abort.target := rfl
@[simp] theorem State.stop_turns (s : State) : (s.stop).turns = s.turns := rfl
@[simp] theorem State.stop_dd (s : State) : (s.stop).dd = s.dd := rfl
@[simp] theorem State.stop_clock (s : State) : (s.stop).clock = s.clock := rfl

/-! `begin`: the begin of a step -/

@[simp] theorem State.begin_cfg (s : State) : (s.begin).cfg = s.cfg := rfl
@[simp] theorem State.begin_pinsOut (s : State) : (s.begin).pinsOut = s.pinsOut := rfl
@[simp] theorem State.begin_pinsOe (s : State) : (s.begin).pinsOe = s.pinsOe := rfl
@[simp] theorem State.begin_life (s : State) : (s.begin).life = s.life := rfl
@[simp] theorem State.begin_leDone (s : State) : (s.begin).leDone = s.leDone := rfl
@[simp] theorem State.begin_variant (s : State) : (s.begin).variant = s.variant := rfl
@[simp] theorem State.begin_phase (s : State) : (s.begin).phase = s.phase := rfl
@[simp] theorem State.begin_osr (s : State) : (s.begin).osr = s.osr := rfl
@[simp] theorem State.begin_osrb (s : State) : (s.begin).osrb = s.osrb := rfl
@[simp] theorem State.begin_opc (s : State) : (s.begin).opc = s.opc := rfl
@[simp] theorem State.begin_txseg (s : State) : (s.begin).txseg = s.txseg := rfl
@[simp] theorem State.begin_bitcnt (s : State) : (s.begin).bitcnt = s.bitcnt := rfl
@[simp] theorem State.begin_wcnt (s : State) : (s.begin).wcnt = s.wcnt := rfl
@[simp] theorem State.begin_rcnt (s : State) : (s.begin).rcnt = s.rcnt := rfl
@[simp] theorem State.begin_isr (s : State) : (s.begin).isr = s.isr := rfl
@[simp] theorem State.begin_nr (s : State) : (s.begin).nr = s.nr := rfl
@[simp] theorem State.begin_holdcnt (s : State) : (s.begin).holdcnt = s.holdcnt := rfl
@[simp] theorem State.begin_falls (s : State) : (s.begin).falls = s.falls := rfl
@[simp] theorem State.begin_txf (s : State) : (s.begin).txf = s.txf := rfl
@[simp] theorem State.begin_rxf (s : State) : (s.begin).rxf = s.rxf := rfl
@[simp] theorem State.begin_owner (s : State) : (s.begin).owner = s.owner := rfl
@[simp] theorem State.begin_chipState (s : State) : (s.begin).chipState = s.chipState := rfl
@[simp] theorem State.begin_chipId (s : State) : (s.begin).chipId = s.chipId := rfl
@[simp] theorem State.begin_chipRev (s : State) : (s.begin).chipRev = s.chipRev := rfl
@[simp] theorem State.begin_chipName (s : State) : (s.begin).chipName = s.chipName := rfl
@[simp] theorem State.begin_dmaEnabled (s : State) : (s.begin).dmaEnabled = s.dmaEnabled := rfl
@[simp] theorem State.begin_fpState (s : State) : (s.begin).fpState = s.fpState := rfl
@[simp] theorem State.begin_fpLen (s : State) : (s.begin).fpLen = s.fpLen := rfl
@[simp] theorem State.begin_err (s : State) : (s.begin).err = s.err := rfl
@[simp] theorem State.begin_eoi (s : State) : (s.begin).eoi = s.eoi := rfl
@[simp] theorem State.begin_toMode (s : State) : (s.begin).toMode = s.toMode := rfl
@[simp] theorem State.begin_toNblk (s : State) : (s.begin).toNblk = s.toNblk := rfl
@[simp] theorem State.begin_toBlk (s : State) : (s.begin).toBlk = s.toBlk := rfl
@[simp] theorem State.begin_toOff (s : State) : (s.begin).toOff = s.toOff := rfl
@[simp] theorem State.begin_buf (s : State) : (s.begin).buf = s.buf := rfl
@[simp] theorem State.begin_tmo (s : State) : (s.begin).tmo = s.tmo := rfl
@[simp] theorem State.begin_tmoErase (s : State) : (s.begin).tmoErase = s.tmoErase := rfl
@[simp] theorem State.begin_tmoProg (s : State) : (s.begin).tmoProg = s.tmoProg := rfl
@[simp] theorem State.begin_tmoLink2 (s : State) : (s.begin).tmoLink2 = s.tmoLink2 := rfl
@[simp] theorem State.begin_req (s : State) : (s.begin).req = s.req := rfl
@[simp] theorem State.begin_tasks (s : State) : (s.begin).tasks = s.tasks := rfl
@[simp] theorem State.begin_ws (s : State) : (s.begin).ws = s.ws := rfl
@[simp] theorem State.begin_result (s : State) : (s.begin).result = s.result := rfl
@[simp] theorem State.begin_sunk (s : State) : (s.begin).sunk = s.sunk := rfl
@[simp] theorem State.begin_target (s : State) : (s.begin).target = s.target := rfl
@[simp] theorem State.begin_turns (s : State) : (s.begin).turns = s.turns.tail := rfl
@[simp] theorem State.begin_dd (s : State) : (s.begin).dd = s.dd := rfl
@[simp] theorem State.begin_clock (s : State) : (s.begin).clock = s.clock + 1 := rfl

/-! `advanceBlock`: the next block of a pass -/

@[simp] theorem State.advanceBlock_cfg (s : State) : (s.advanceBlock).cfg = s.cfg := rfl
@[simp] theorem State.advanceBlock_pinsOut (s : State) : (s.advanceBlock).pinsOut = s.pinsOut := rfl
@[simp] theorem State.advanceBlock_pinsOe (s : State) : (s.advanceBlock).pinsOe = s.pinsOe := rfl
@[simp] theorem State.advanceBlock_life (s : State) : (s.advanceBlock).life = s.life := rfl
@[simp] theorem State.advanceBlock_leDone (s : State) : (s.advanceBlock).leDone = s.leDone := rfl
@[simp] theorem State.advanceBlock_variant (s : State) : (s.advanceBlock).variant = s.variant := rfl
@[simp] theorem State.advanceBlock_phase (s : State) : (s.advanceBlock).phase = s.phase := rfl
@[simp] theorem State.advanceBlock_osr (s : State) : (s.advanceBlock).osr = s.osr := rfl
@[simp] theorem State.advanceBlock_osrb (s : State) : (s.advanceBlock).osrb = s.osrb := rfl
@[simp] theorem State.advanceBlock_opc (s : State) : (s.advanceBlock).opc = s.opc := rfl
@[simp] theorem State.advanceBlock_txseg (s : State) : (s.advanceBlock).txseg = s.txseg := rfl
@[simp] theorem State.advanceBlock_bitcnt (s : State) : (s.advanceBlock).bitcnt = s.bitcnt := rfl
@[simp] theorem State.advanceBlock_wcnt (s : State) : (s.advanceBlock).wcnt = s.wcnt := rfl
@[simp] theorem State.advanceBlock_rcnt (s : State) : (s.advanceBlock).rcnt = s.rcnt := rfl
@[simp] theorem State.advanceBlock_isr (s : State) : (s.advanceBlock).isr = s.isr := rfl
@[simp] theorem State.advanceBlock_nr (s : State) : (s.advanceBlock).nr = s.nr := rfl
@[simp] theorem State.advanceBlock_holdcnt (s : State) : (s.advanceBlock).holdcnt = s.holdcnt := rfl
@[simp] theorem State.advanceBlock_falls (s : State) : (s.advanceBlock).falls = s.falls := rfl
@[simp] theorem State.advanceBlock_txf (s : State) : (s.advanceBlock).txf = s.txf := rfl
@[simp] theorem State.advanceBlock_rxf (s : State) : (s.advanceBlock).rxf = s.rxf := rfl
@[simp] theorem State.advanceBlock_owner (s : State) : (s.advanceBlock).owner = s.owner := rfl
@[simp] theorem State.advanceBlock_chipState (s : State) : (s.advanceBlock).chipState = s.chipState := rfl
@[simp] theorem State.advanceBlock_chipId (s : State) : (s.advanceBlock).chipId = s.chipId := rfl
@[simp] theorem State.advanceBlock_chipRev (s : State) : (s.advanceBlock).chipRev = s.chipRev := rfl
@[simp] theorem State.advanceBlock_chipName (s : State) : (s.advanceBlock).chipName = s.chipName := rfl
@[simp] theorem State.advanceBlock_dmaEnabled (s : State) : (s.advanceBlock).dmaEnabled = s.dmaEnabled := rfl
@[simp] theorem State.advanceBlock_fpState (s : State) : (s.advanceBlock).fpState = s.fpState := rfl
@[simp] theorem State.advanceBlock_fpLen (s : State) : (s.advanceBlock).fpLen = s.fpLen := rfl
@[simp] theorem State.advanceBlock_err (s : State) : (s.advanceBlock).err = s.err := rfl
@[simp] theorem State.advanceBlock_eoi (s : State) : (s.advanceBlock).eoi = s.eoi := rfl
@[simp] theorem State.advanceBlock_toMode (s : State) : (s.advanceBlock).toMode = s.toMode := rfl
@[simp] theorem State.advanceBlock_toNblk (s : State) : (s.advanceBlock).toNblk = s.toNblk := rfl
@[simp] theorem State.advanceBlock_toBlk (s : State) : (s.advanceBlock).toBlk = s.toBlk + 1#19 := rfl
@[simp] theorem State.advanceBlock_toOff (s : State) : (s.advanceBlock).toOff = s.toOff + BitVec.ofNat 19 s.cfg.blockSize := rfl
@[simp] theorem State.advanceBlock_buf (s : State) : (s.advanceBlock).buf = s.buf := rfl
@[simp] theorem State.advanceBlock_tmo (s : State) : (s.advanceBlock).tmo = s.tmo := rfl
@[simp] theorem State.advanceBlock_tmoErase (s : State) : (s.advanceBlock).tmoErase = s.tmoErase := rfl
@[simp] theorem State.advanceBlock_tmoProg (s : State) : (s.advanceBlock).tmoProg = s.tmoProg := rfl
@[simp] theorem State.advanceBlock_tmoLink2 (s : State) : (s.advanceBlock).tmoLink2 = s.tmoLink2 := rfl
@[simp] theorem State.advanceBlock_req (s : State) : (s.advanceBlock).req = s.req := rfl
@[simp] theorem State.advanceBlock_tasks (s : State) : (s.advanceBlock).tasks = s.tasks := rfl
@[simp] theorem State.advanceBlock_ws (s : State) : (s.advanceBlock).ws = s.ws := rfl
@[simp] theorem State.advanceBlock_result (s : State) : (s.advanceBlock).result = s.result := rfl
@[simp] theorem State.advanceBlock_sunk (s : State) : (s.advanceBlock).sunk = s.sunk := rfl
@[simp] theorem State.advanceBlock_target (s : State) : (s.advanceBlock).target = s.target := rfl
@[simp] theorem State.advanceBlock_turns (s : State) : (s.advanceBlock).turns = s.turns := rfl
@[simp] theorem State.advanceBlock_dd (s : State) : (s.advanceBlock).dd = s.dd := rfl
@[simp] theorem State.advanceBlock_clock (s : State) : (s.advanceBlock).clock = s.clock := rfl

/-! `setTimer`: a write of a timer -/

@[simp] theorem State.setTimer_cfg (s : State) (i : TimerId) (t : Timer) : (s.setTimer i t).cfg = s.cfg := by cases i <;> rfl
@[simp] theorem State.setTimer_pinsOut (s : State) (i : TimerId) (t : Timer) : (s.setTimer i t).pinsOut = s.pinsOut := by cases i <;> rfl
@[simp] theorem State.setTimer_pinsOe (s : State) (i : TimerId) (t : Timer) : (s.setTimer i t).pinsOe = s.pinsOe := by cases i <;> rfl
@[simp] theorem State.setTimer_life (s : State) (i : TimerId) (t : Timer) : (s.setTimer i t).life = s.life := by cases i <;> rfl
@[simp] theorem State.setTimer_leDone (s : State) (i : TimerId) (t : Timer) : (s.setTimer i t).leDone = s.leDone := by cases i <;> rfl
@[simp] theorem State.setTimer_variant (s : State) (i : TimerId) (t : Timer) : (s.setTimer i t).variant = s.variant := by cases i <;> rfl
@[simp] theorem State.setTimer_phase (s : State) (i : TimerId) (t : Timer) : (s.setTimer i t).phase = s.phase := by cases i <;> rfl
@[simp] theorem State.setTimer_osr (s : State) (i : TimerId) (t : Timer) : (s.setTimer i t).osr = s.osr := by cases i <;> rfl
@[simp] theorem State.setTimer_osrb (s : State) (i : TimerId) (t : Timer) : (s.setTimer i t).osrb = s.osrb := by cases i <;> rfl
@[simp] theorem State.setTimer_opc (s : State) (i : TimerId) (t : Timer) : (s.setTimer i t).opc = s.opc := by cases i <;> rfl
@[simp] theorem State.setTimer_txseg (s : State) (i : TimerId) (t : Timer) : (s.setTimer i t).txseg = s.txseg := by cases i <;> rfl
@[simp] theorem State.setTimer_bitcnt (s : State) (i : TimerId) (t : Timer) : (s.setTimer i t).bitcnt = s.bitcnt := by cases i <;> rfl
@[simp] theorem State.setTimer_wcnt (s : State) (i : TimerId) (t : Timer) : (s.setTimer i t).wcnt = s.wcnt := by cases i <;> rfl
@[simp] theorem State.setTimer_rcnt (s : State) (i : TimerId) (t : Timer) : (s.setTimer i t).rcnt = s.rcnt := by cases i <;> rfl
@[simp] theorem State.setTimer_isr (s : State) (i : TimerId) (t : Timer) : (s.setTimer i t).isr = s.isr := by cases i <;> rfl
@[simp] theorem State.setTimer_nr (s : State) (i : TimerId) (t : Timer) : (s.setTimer i t).nr = s.nr := by cases i <;> rfl
@[simp] theorem State.setTimer_holdcnt (s : State) (i : TimerId) (t : Timer) : (s.setTimer i t).holdcnt = s.holdcnt := by cases i <;> rfl
@[simp] theorem State.setTimer_falls (s : State) (i : TimerId) (t : Timer) : (s.setTimer i t).falls = s.falls := by cases i <;> rfl
@[simp] theorem State.setTimer_txf (s : State) (i : TimerId) (t : Timer) : (s.setTimer i t).txf = s.txf := by cases i <;> rfl
@[simp] theorem State.setTimer_rxf (s : State) (i : TimerId) (t : Timer) : (s.setTimer i t).rxf = s.rxf := by cases i <;> rfl
@[simp] theorem State.setTimer_owner (s : State) (i : TimerId) (t : Timer) : (s.setTimer i t).owner = s.owner := by cases i <;> rfl
@[simp] theorem State.setTimer_chipState (s : State) (i : TimerId) (t : Timer) : (s.setTimer i t).chipState = s.chipState := by cases i <;> rfl
@[simp] theorem State.setTimer_chipId (s : State) (i : TimerId) (t : Timer) : (s.setTimer i t).chipId = s.chipId := by cases i <;> rfl
@[simp] theorem State.setTimer_chipRev (s : State) (i : TimerId) (t : Timer) : (s.setTimer i t).chipRev = s.chipRev := by cases i <;> rfl
@[simp] theorem State.setTimer_chipName (s : State) (i : TimerId) (t : Timer) : (s.setTimer i t).chipName = s.chipName := by cases i <;> rfl
@[simp] theorem State.setTimer_dmaEnabled (s : State) (i : TimerId) (t : Timer) : (s.setTimer i t).dmaEnabled = s.dmaEnabled := by cases i <;> rfl
@[simp] theorem State.setTimer_fpState (s : State) (i : TimerId) (t : Timer) : (s.setTimer i t).fpState = s.fpState := by cases i <;> rfl
@[simp] theorem State.setTimer_fpLen (s : State) (i : TimerId) (t : Timer) : (s.setTimer i t).fpLen = s.fpLen := by cases i <;> rfl
@[simp] theorem State.setTimer_err (s : State) (i : TimerId) (t : Timer) : (s.setTimer i t).err = s.err := by cases i <;> rfl
@[simp] theorem State.setTimer_eoi (s : State) (i : TimerId) (t : Timer) : (s.setTimer i t).eoi = s.eoi := by cases i <;> rfl
@[simp] theorem State.setTimer_toMode (s : State) (i : TimerId) (t : Timer) : (s.setTimer i t).toMode = s.toMode := by cases i <;> rfl
@[simp] theorem State.setTimer_toNblk (s : State) (i : TimerId) (t : Timer) : (s.setTimer i t).toNblk = s.toNblk := by cases i <;> rfl
@[simp] theorem State.setTimer_toBlk (s : State) (i : TimerId) (t : Timer) : (s.setTimer i t).toBlk = s.toBlk := by cases i <;> rfl
@[simp] theorem State.setTimer_toOff (s : State) (i : TimerId) (t : Timer) : (s.setTimer i t).toOff = s.toOff := by cases i <;> rfl
@[simp] theorem State.setTimer_buf (s : State) (i : TimerId) (t : Timer) : (s.setTimer i t).buf = s.buf := by cases i <;> rfl
@[simp] theorem State.setTimer_req (s : State) (i : TimerId) (t : Timer) : (s.setTimer i t).req = s.req := by cases i <;> rfl
@[simp] theorem State.setTimer_tasks (s : State) (i : TimerId) (t : Timer) : (s.setTimer i t).tasks = s.tasks := by cases i <;> rfl
@[simp] theorem State.setTimer_ws (s : State) (i : TimerId) (t : Timer) : (s.setTimer i t).ws = s.ws := by cases i <;> rfl
@[simp] theorem State.setTimer_result (s : State) (i : TimerId) (t : Timer) : (s.setTimer i t).result = s.result := by cases i <;> rfl
@[simp] theorem State.setTimer_sunk (s : State) (i : TimerId) (t : Timer) : (s.setTimer i t).sunk = s.sunk := by cases i <;> rfl
@[simp] theorem State.setTimer_target (s : State) (i : TimerId) (t : Timer) : (s.setTimer i t).target = s.target := by cases i <;> rfl
@[simp] theorem State.setTimer_turns (s : State) (i : TimerId) (t : Timer) : (s.setTimer i t).turns = s.turns := by cases i <;> rfl
@[simp] theorem State.setTimer_dd (s : State) (i : TimerId) (t : Timer) : (s.setTimer i t).dd = s.dd := by cases i <;> rfl
@[simp] theorem State.setTimer_clock (s : State) (i : TimerId) (t : Timer) : (s.setTimer i t).clock = s.clock := by cases i <;> rfl

/-! `forget`: nothing is known of what the target holds -/

@[simp] theorem Target.forget_inDebug (t : Target) (n : Nat) : (t.forget n).inDebug = t.inDebug := rfl
@[simp] theorem Target.forget_falls (t : Target) (n : Nat) : (t.forget n).falls = t.falls := rfl
@[simp] theorem Target.forget_bits (t : Target) (n : Nat) : (t.forget n).bits = t.bits := rfl
@[simp] theorem Target.forget_inbox (t : Target) (n : Nat) : (t.forget n).inbox = t.inbox := rfl
@[simp] theorem Target.forget_resp (t : Target) (n : Nat) : (t.forget n).resp = t.resp := rfl
@[simp] theorem Target.forget_dptr (t : Target) (n : Nat) : (t.forget n).dptr = Config.freeHalf n 0 := rfl
@[simp] theorem Target.forget_acc (t : Target) (n : Nat) : (t.forget n).acc = Config.freeByte n 0 := rfl
@[simp] theorem Target.forget_config (t : Target) (n : Nat) : (t.forget n).config = Config.freeByte n 1 := rfl
@[simp] theorem Target.forget_xdata (t : Target) (n : Nat) : (t.forget n).xdata = [] := rfl
@[simp] theorem Target.forget_flash (t : Target) (n : Nat) : (t.forget n).flash = [] := rfl
@[simp] theorem Target.forget_erased (t : Target) (n : Nat) : (t.forget n).erased = false := rfl
@[simp] theorem Target.forget_armedA (t : Target) (n : Nat) : (t.forget n).armedA = false := rfl
@[simp] theorem Target.forget_armedB (t : Target) (n : Nat) : (t.forget n).armedB = false := rfl
@[simp] theorem Target.forget_dbg (t : Target) (n : Nat) : (t.forget n).dbg = [] := rfl
@[simp] theorem Target.forget_pending (t : Target) (n : Nat) :
    (t.forget n).pending = t.pending.map fun _ => .chUnknown := rfl

/-! `unknownCommand`: a frame of which nothing is known -/

@[simp] theorem Target.unknownCommand_inDebug (t : Target) (n : Nat) : (t.unknownCommand n).inDebug = t.inDebug := rfl
@[simp] theorem Target.unknownCommand_falls (t : Target) (n : Nat) : (t.unknownCommand n).falls = t.falls := rfl
@[simp] theorem Target.unknownCommand_bits (t : Target) (n : Nat) : (t.unknownCommand n).bits = t.bits := rfl
@[simp] theorem Target.unknownCommand_inbox (t : Target) (n : Nat) : (t.unknownCommand n).inbox = t.inbox := rfl
@[simp] theorem Target.unknownCommand_resp (t : Target) (n : Nat) : (t.unknownCommand n).resp = [] := rfl
@[simp] theorem Target.unknownCommand_dptr (t : Target) (n : Nat) : (t.unknownCommand n).dptr = Config.freeHalf n 0 := rfl
@[simp] theorem Target.unknownCommand_acc (t : Target) (n : Nat) : (t.unknownCommand n).acc = Config.freeByte n 0 := rfl
@[simp] theorem Target.unknownCommand_config (t : Target) (n : Nat) : (t.unknownCommand n).config = Config.freeByte n 1 := rfl
@[simp] theorem Target.unknownCommand_xdata (t : Target) (n : Nat) : (t.unknownCommand n).xdata = [] := rfl
@[simp] theorem Target.unknownCommand_flash (t : Target) (n : Nat) : (t.unknownCommand n).flash = [] := rfl
@[simp] theorem Target.unknownCommand_erased (t : Target) (n : Nat) : (t.unknownCommand n).erased = false := rfl
@[simp] theorem Target.unknownCommand_armedA (t : Target) (n : Nat) : (t.unknownCommand n).armedA = false := rfl
@[simp] theorem Target.unknownCommand_armedB (t : Target) (n : Nat) : (t.unknownCommand n).armedB = false := rfl
@[simp] theorem Target.unknownCommand_dbg (t : Target) (n : Nat) : (t.unknownCommand n).dbg = [] := rfl
@[simp] theorem Target.unknownCommand_pending (t : Target) (n : Nat) :
    (t.unknownCommand n).pending = t.pending.map fun _ => .chUnknown := rfl

/-! `hold`: the target is reset -/

@[simp] theorem Target.hold_inDebug (t : Target) (n : Nat) : (t.hold n).inDebug = false := rfl
@[simp] theorem Target.hold_falls (t : Target) (n : Nat) : (t.hold n).falls = 0 := rfl
@[simp] theorem Target.hold_bits (t : Target) (n : Nat) : (t.hold n).bits = [] := rfl
@[simp] theorem Target.hold_inbox (t : Target) (n : Nat) : (t.hold n).inbox = [] := rfl
@[simp] theorem Target.hold_resp (t : Target) (n : Nat) : (t.hold n).resp = [] := rfl
@[simp] theorem Target.hold_dptr (t : Target) (n : Nat) : (t.hold n).dptr = Config.freeHalf n 0 := rfl
@[simp] theorem Target.hold_acc (t : Target) (n : Nat) : (t.hold n).acc = Config.freeByte n 0 := rfl
@[simp] theorem Target.hold_config (t : Target) (n : Nat) : (t.hold n).config = Config.freeByte n 1 := rfl
@[simp] theorem Target.hold_xdata (t : Target) (n : Nat) : (t.hold n).xdata = [] := rfl
@[simp] theorem Target.hold_flash (t : Target) (n : Nat) : (t.hold n).flash = t.flash := rfl
@[simp] theorem Target.hold_erased (t : Target) (n : Nat) : (t.hold n).erased = t.erased := rfl
@[simp] theorem Target.hold_armedA (t : Target) (n : Nat) : (t.hold n).armedA = false := rfl
@[simp] theorem Target.hold_armedB (t : Target) (n : Nat) : (t.hold n).armedB = false := rfl
@[simp] theorem Target.hold_dbg (t : Target) (n : Nat) : (t.hold n).dbg = [] := rfl
@[simp] theorem Target.hold_pending (t : Target) (n : Nat) : (t.hold n).pending = [] := rfl

/-! `lose`: a frame was cut -/

@[simp] theorem Target.lose_inDebug (t : Target) (n : Nat) : (t.lose n).inDebug = false := rfl
@[simp] theorem Target.lose_falls (t : Target) (n : Nat) : (t.lose n).falls = t.falls := rfl
@[simp] theorem Target.lose_bits (t : Target) (n : Nat) : (t.lose n).bits = [] := rfl
@[simp] theorem Target.lose_inbox (t : Target) (n : Nat) : (t.lose n).inbox = [] := rfl
@[simp] theorem Target.lose_resp (t : Target) (n : Nat) : (t.lose n).resp = [] := rfl
@[simp] theorem Target.lose_dptr (t : Target) (n : Nat) : (t.lose n).dptr = Config.freeHalf n 0 := rfl
@[simp] theorem Target.lose_acc (t : Target) (n : Nat) : (t.lose n).acc = Config.freeByte n 0 := rfl
@[simp] theorem Target.lose_config (t : Target) (n : Nat) : (t.lose n).config = Config.freeByte n 1 := rfl
@[simp] theorem Target.lose_xdata (t : Target) (n : Nat) : (t.lose n).xdata = [] := rfl
@[simp] theorem Target.lose_flash (t : Target) (n : Nat) : (t.lose n).flash = [] := rfl
@[simp] theorem Target.lose_erased (t : Target) (n : Nat) : (t.lose n).erased = false := rfl
@[simp] theorem Target.lose_armedA (t : Target) (n : Nat) : (t.lose n).armedA = false := rfl
@[simp] theorem Target.lose_armedB (t : Target) (n : Nat) : (t.lose n).armedB = false := rfl
@[simp] theorem Target.lose_dbg (t : Target) (n : Nat) : (t.lose n).dbg = [] := rfl
@[simp] theorem Target.lose_pending (t : Target) (n : Nat) :
    (t.lose n).pending = t.pending.map fun _ => .chUnknown := rfl

/-! `answer`: a response -/

@[simp] theorem Target.answer_inDebug (t : Target) (bs : List Byte) : (t.answer bs).inDebug = t.inDebug := rfl
@[simp] theorem Target.answer_falls (t : Target) (bs : List Byte) : (t.answer bs).falls = t.falls := rfl
@[simp] theorem Target.answer_bits (t : Target) (bs : List Byte) : (t.answer bs).bits = t.bits := rfl
@[simp] theorem Target.answer_inbox (t : Target) (bs : List Byte) : (t.answer bs).inbox = t.inbox := rfl
@[simp] theorem Target.answer_resp (t : Target) (bs : List Byte) : (t.answer bs).resp = bs.flatMap byteBits := rfl
@[simp] theorem Target.answer_dptr (t : Target) (bs : List Byte) : (t.answer bs).dptr = t.dptr := rfl
@[simp] theorem Target.answer_acc (t : Target) (bs : List Byte) : (t.answer bs).acc = t.acc := rfl
@[simp] theorem Target.answer_config (t : Target) (bs : List Byte) : (t.answer bs).config = t.config := rfl
@[simp] theorem Target.answer_xdata (t : Target) (bs : List Byte) : (t.answer bs).xdata = t.xdata := rfl
@[simp] theorem Target.answer_flash (t : Target) (bs : List Byte) : (t.answer bs).flash = t.flash := rfl
@[simp] theorem Target.answer_erased (t : Target) (bs : List Byte) : (t.answer bs).erased = t.erased := rfl
@[simp] theorem Target.answer_armedA (t : Target) (bs : List Byte) : (t.answer bs).armedA = t.armedA := rfl
@[simp] theorem Target.answer_armedB (t : Target) (bs : List Byte) : (t.answer bs).armedB = t.armedB := rfl
@[simp] theorem Target.answer_dbg (t : Target) (bs : List Byte) : (t.answer bs).dbg = t.dbg := rfl
@[simp] theorem Target.answer_pending (t : Target) (bs : List Byte) : (t.answer bs).pending = t.pending := rfl

/-! `movDptr`: pointer load -/

@[simp] theorem Target.movDptr_inDebug (t : Target) (a : Half) : (t.movDptr a).inDebug = t.inDebug := rfl
@[simp] theorem Target.movDptr_falls (t : Target) (a : Half) : (t.movDptr a).falls = t.falls := rfl
@[simp] theorem Target.movDptr_bits (t : Target) (a : Half) : (t.movDptr a).bits = t.bits := rfl
@[simp] theorem Target.movDptr_inbox (t : Target) (a : Half) : (t.movDptr a).inbox = t.inbox := rfl
@[simp] theorem Target.movDptr_resp (t : Target) (a : Half) : (t.movDptr a).resp = t.resp := rfl
@[simp] theorem Target.movDptr_dptr (t : Target) (a : Half) : (t.movDptr a).dptr = a := rfl
@[simp] theorem Target.movDptr_acc (t : Target) (a : Half) : (t.movDptr a).acc = t.acc := rfl
@[simp] theorem Target.movDptr_config (t : Target) (a : Half) : (t.movDptr a).config = t.config := rfl
@[simp] theorem Target.movDptr_xdata (t : Target) (a : Half) : (t.movDptr a).xdata = t.xdata := rfl
@[simp] theorem Target.movDptr_flash (t : Target) (a : Half) : (t.movDptr a).flash = t.flash := rfl
@[simp] theorem Target.movDptr_erased (t : Target) (a : Half) : (t.movDptr a).erased = t.erased := rfl
@[simp] theorem Target.movDptr_armedA (t : Target) (a : Half) : (t.movDptr a).armedA = t.armedA := rfl
@[simp] theorem Target.movDptr_armedB (t : Target) (a : Half) : (t.movDptr a).armedB = t.armedB := rfl
@[simp] theorem Target.movDptr_dbg (t : Target) (a : Half) : (t.movDptr a).dbg = t.dbg := rfl
@[simp] theorem Target.movDptr_pending (t : Target) (a : Half) : (t.movDptr a).pending = t.pending := rfl

/-! `movA`: accumulator load -/

@[simp] theorem Target.movA_inDebug (t : Target) (v : Byte) : (t.movA v).inDebug = t.inDebug := rfl
@[simp] theorem Target.movA_falls (t : Target) (v : Byte) : (t.movA v).falls = t.falls := rfl
@[simp] theorem Target.movA_bits (t : Target) (v : Byte) : (t.movA v).bits = t.bits := rfl
@[simp] theorem Target.movA_inbox (t : Target) (v : Byte) : (t.movA v).inbox = t.inbox := rfl
@[simp] theorem Target.movA_resp (t : Target) (v : Byte) : (t.movA v).resp = t.resp := rfl
@[simp] theorem Target.movA_dptr (t : Target) (v : Byte) : (t.movA v).dptr = t.dptr := rfl
@[simp] theorem Target.movA_acc (t : Target) (v : Byte) : (t.movA v).acc = v := rfl
@[simp] theorem Target.movA_config (t : Target) (v : Byte) : (t.movA v).config = t.config := rfl
@[simp] theorem Target.movA_xdata (t : Target) (v : Byte) : (t.movA v).xdata = t.xdata := rfl
@[simp] theorem Target.movA_flash (t : Target) (v : Byte) : (t.movA v).flash = t.flash := rfl
@[simp] theorem Target.movA_erased (t : Target) (v : Byte) : (t.movA v).erased = t.erased := rfl
@[simp] theorem Target.movA_armedA (t : Target) (v : Byte) : (t.movA v).armedA = t.armedA := rfl
@[simp] theorem Target.movA_armedB (t : Target) (v : Byte) : (t.movA v).armedB = t.armedB := rfl
@[simp] theorem Target.movA_dbg (t : Target) (v : Byte) : (t.movA v).dbg = t.dbg := rfl
@[simp] theorem Target.movA_pending (t : Target) (v : Byte) : (t.movA v).pending = t.pending := rfl

/-! `movxLd`: load -/

@[simp] theorem Target.movxLd_inDebug (t : Target) (cfg : Config) (b : Byte) : (t.movxLd cfg b).inDebug = t.inDebug := rfl
@[simp] theorem Target.movxLd_falls (t : Target) (cfg : Config) (b : Byte) : (t.movxLd cfg b).falls = t.falls := rfl
@[simp] theorem Target.movxLd_bits (t : Target) (cfg : Config) (b : Byte) : (t.movxLd cfg b).bits = t.bits := rfl
@[simp] theorem Target.movxLd_inbox (t : Target) (cfg : Config) (b : Byte) : (t.movxLd cfg b).inbox = t.inbox := rfl
@[simp] theorem Target.movxLd_resp (t : Target) (cfg : Config) (b : Byte) : (t.movxLd cfg b).resp = t.resp := rfl
@[simp] theorem Target.movxLd_dptr (t : Target) (cfg : Config) (b : Byte) : (t.movxLd cfg b).dptr = t.dptr := rfl
@[simp] theorem Target.movxLd_acc (t : Target) (cfg : Config) (b : Byte) : (t.movxLd cfg b).acc = (t.loaded cfg t.dptr).getD b := rfl
@[simp] theorem Target.movxLd_config (t : Target) (cfg : Config) (b : Byte) : (t.movxLd cfg b).config = t.config := rfl
@[simp] theorem Target.movxLd_xdata (t : Target) (cfg : Config) (b : Byte) : (t.movxLd cfg b).xdata = t.xdata := rfl
@[simp] theorem Target.movxLd_flash (t : Target) (cfg : Config) (b : Byte) : (t.movxLd cfg b).flash = t.flash := rfl
@[simp] theorem Target.movxLd_erased (t : Target) (cfg : Config) (b : Byte) : (t.movxLd cfg b).erased = t.erased := rfl
@[simp] theorem Target.movxLd_armedA (t : Target) (cfg : Config) (b : Byte) : (t.movxLd cfg b).armedA = t.armedA := rfl
@[simp] theorem Target.movxLd_armedB (t : Target) (cfg : Config) (b : Byte) : (t.movxLd cfg b).armedB = t.armedB := rfl
@[simp] theorem Target.movxLd_dbg (t : Target) (cfg : Config) (b : Byte) : (t.movxLd cfg b).dbg = t.dbg := rfl
@[simp] theorem Target.movxLd_pending (t : Target) (cfg : Config) (b : Byte) : (t.movxLd cfg b).pending = t.pending := rfl

/-! `incDptr`: pointer increment -/

@[simp] theorem Target.incDptr_inDebug (t : Target) (a : Half) : (t.incDptr a).inDebug = t.inDebug := rfl
@[simp] theorem Target.incDptr_falls (t : Target) (a : Half) : (t.incDptr a).falls = t.falls := rfl
@[simp] theorem Target.incDptr_bits (t : Target) (a : Half) : (t.incDptr a).bits = t.bits := rfl
@[simp] theorem Target.incDptr_inbox (t : Target) (a : Half) : (t.incDptr a).inbox = t.inbox := rfl
@[simp] theorem Target.incDptr_resp (t : Target) (a : Half) : (t.incDptr a).resp = t.resp := rfl
@[simp] theorem Target.incDptr_dptr (t : Target) (a : Half) : (t.incDptr a).dptr = if t.dptr = 0xFFFF#16 then a else t.dptr + 1#16 := rfl
@[simp] theorem Target.incDptr_acc (t : Target) (a : Half) : (t.incDptr a).acc = t.acc := rfl
@[simp] theorem Target.incDptr_config (t : Target) (a : Half) : (t.incDptr a).config = t.config := rfl
@[simp] theorem Target.incDptr_xdata (t : Target) (a : Half) : (t.incDptr a).xdata = t.xdata := rfl
@[simp] theorem Target.incDptr_flash (t : Target) (a : Half) : (t.incDptr a).flash = t.flash := rfl
@[simp] theorem Target.incDptr_erased (t : Target) (a : Half) : (t.incDptr a).erased = t.erased := rfl
@[simp] theorem Target.incDptr_armedA (t : Target) (a : Half) : (t.incDptr a).armedA = t.armedA := rfl
@[simp] theorem Target.incDptr_armedB (t : Target) (a : Half) : (t.incDptr a).armedB = t.armedB := rfl
@[simp] theorem Target.incDptr_dbg (t : Target) (a : Half) : (t.incDptr a).dbg = t.dbg := rfl
@[simp] theorem Target.incDptr_pending (t : Target) (a : Half) : (t.incDptr a).pending = t.pending := rfl

end Sys2Proof.Machine
end

