-- ==== Sys2Proof/Laws/Ops.lean ====
section
/-! SUPPORT. What each shared operation can do, said once: pins, the target's view of them, working registers, timers, the
host context, failures, the lifecycle, and the execution of a command. -/

namespace Sys2Proof.Machine

/-! ### Pins -/

@[simp] theorem ddOf_setLine_data (v : BitVec 3) (b : Bool) : ddOf (setLine v 0 b) = b := by revert v b; decide
@[simp] theorem dcOf_setLine_data (v : BitVec 3) (b : Bool) : dcOf (setLine v 0 b) = dcOf v := by revert v b; decide
@[simp] theorem rstnOf_setLine_data (v : BitVec 3) (b : Bool) : rstnOf (setLine v 0 b) = rstnOf v := by revert v b; decide
@[simp] theorem ddOf_setLine_strobe (v : BitVec 3) (b : Bool) : ddOf (setLine v 1 b) = ddOf v := by revert v b; decide
@[simp] theorem dcOf_setLine_strobe (v : BitVec 3) (b : Bool) : dcOf (setLine v 1 b) = b := by revert v b; decide
@[simp] theorem rstnOf_setLine_strobe (v : BitVec 3) (b : Bool) : rstnOf (setLine v 1 b) = rstnOf v := by revert v b; decide
@[simp] theorem ddOf_setLine_reset (v : BitVec 3) (b : Bool) : ddOf (setLine v 2 b) = ddOf v := by revert v b; decide
@[simp] theorem dcOf_setLine_reset (v : BitVec 3) (b : Bool) : dcOf (setLine v 2 b) = dcOf v := by revert v b; decide
@[simp] theorem rstnOf_setLine_reset (v : BitVec 3) (b : Bool) : rstnOf (setLine v 2 b) = b := by revert v b; decide

/-- Three levels make a pin register. -/
theorem pins_ext {v w : BitVec 3} (h0 : ddOf v = ddOf w) (h1 : dcOf v = dcOf w) (h2 : rstnOf v = rstnOf w) : v = w := by
  revert v w; decide

/-- Setting a line to a level as a mask. -/
theorem setLine_masks (v : BitVec 3) :
    setLine v 0 false = v &&& 0b110#3 ∧ setLine v 0 true = v ||| 0b001#3 ∧ setLine v 1 false = v &&& 0b101#3 ∧
      setLine v 1 true = v ||| 0b010#3 ∧ setLine v 2 false = v &&& 0b011#3 ∧ setLine v 2 true = v ||| 0b100#3 := by
  revert v; decide

/-! ### The target's view of the pins -/

/-- The falling edges counted under reset after a change of the pins. -/
theorem Target.sees_falls (t : Target) (n : Nat) (out oe out' oe' : BitVec 3) :
    (t.sees n out oe out' oe').falls =
      if rstnOf out && !rstnOf out' then 0
      else if dcOf out && !dcOf out' && !rstnOf out' then t.falls + 1
      else t.falls := by
  unfold Target.sees
  repeat' split
  all_goals simp_all

/-- A change of the pins writes no memory: XDATA and flash stay, or are lost sight of. -/
theorem Target.sees_memories (t : Target) (n : Nat) (out oe out' oe' : BitVec 3) :
    ((t.sees n out oe out' oe').xdata = t.xdata ∨ (t.sees n out oe out' oe').xdata = []) ∧
      (t.sees n out oe out' oe').flash = t.flash := by
  unfold Target.sees
  repeat' split
  all_goals simp

/-! ### Working registers -/

@[simp] theorem Reg.read_of {α : Type} (a free : α) : (Reg.of a).read free = a := rfl
@[simp] theorem Reg.of_val {α : Type} (a : α) : (Reg.of a).val = a := rfl
@[simp] theorem Reg.of_written {α : Type} (a : α) : (Reg.of a).written = true := rfl
@[simp] theorem Reg.unwritten_written {α : Type} (a : α) : (Reg.unwritten a).written = false := rfl

/-- A register that is written reads as its value, whatever the free value. -/
theorem Reg.read_written {α : Type} (r : Reg α) (free : α) (h : r.written = true) : r.read free = r.val := by
  simp [Reg.read, h]

/-! ### Timers -/

@[simp] theorem State.timer_setTimer (s : State) (i : TimerId) (t : Timer) : (s.setTimer i t).timer i = t := by
  cases i <;> rfl

theorem State.timer_setTimer_other (s : State) {i j : TimerId} (t : Timer) (h : j ≠ i) :
    (s.setTimer i t).timer j = s.timer j := by
  cases i <;> cases j <;> first | rfl | exact absurd rfl h

/-- Arming or asking a timer writes that timer alone. -/
theorem State.setTimer_frame (s : State) (i : TimerId) (t : Timer) :
    s.setTimer i t = { s with
      tmo := (s.setTimer i t).tmo, tmoErase := (s.setTimer i t).tmoErase
      tmoProg := (s.setTimer i t).tmoProg, tmoLink2 := (s.setTimer i t).tmoLink2 } := by
  cases i <;> rfl

/-! ### The host context -/

/-- `issue` answers a next state: the effect where the requirement holds, else a refusal. -/
theorem issue_eq_next {ok : Bool} {s t u : State} :
    issue ok s t = .next u ↔ (ok = true ∧ u = t) ∨ (ok = false ∧ u = s.refuse) := by
  cases ok <;> simp [issue, eq_comm]

theorem State.held_eq_true (s : State) : s.held = true ↔ s.owner = .held := by simp [State.held]

theorem State.ready_eq_true (s : State) : s.ready = true ↔ s.owner = .held ∧ s.chipState = .identified := by
  simp [State.ready, State.held]

theorem State.passReady_eq_true (s : State) :
    s.passReady = true ↔
      (s.owner = .held ∧ s.chipState = .identified) ∧ s.err = 0#3 ∧ s.toMode = .none := by
  simp [State.passReady, State.ready_eq_true, and_assoc]

/-! ### The lifecycle -/

/-- What an aborted engine leaves on the lines. -/
theorem State.abort_pins (s : State) :
    s.abort.dcOut = false ∧ s.abort.ddOe = false ∧ s.abort.ddOut = s.ddOut ∧
      s.abort.rstnOut = (s.variant == .vAttach || s.rstnOut) := by
  refine ⟨?_, by simp [State.ddOe], ?_, ?_⟩ <;>
    simp only [State.dcOut, State.ddOut, State.rstnOut, State.abort_pinsOut, State.abortOut] <;> split <;> simp_all

/-- The fields of the host context and the parameters are as before a teardown. -/
theorem State.teardown_frame (s : State) :
    s.teardown = { s with
      life := .unloaded, variant := s.teardown.variant, phase := s.teardown.phase, leDone := s.teardown.leDone
      pinsOut := s.teardown.pinsOut, pinsOe := s.teardown.pinsOe, osr := s.teardown.osr, osrb := s.teardown.osrb
      opc := s.teardown.opc, txseg := s.teardown.txseg, bitcnt := s.teardown.bitcnt, wcnt := s.teardown.wcnt
      rcnt := s.teardown.rcnt, isr := s.teardown.isr, nr := s.teardown.nr, holdcnt := s.teardown.holdcnt
      falls := s.teardown.falls, txf := s.teardown.txf, rxf := s.teardown.rxf, target := s.teardown.target } := by
  cases h : s.life <;> simp only [State.teardown, h] <;> simp [State.deinit, State.stop, State.abort, ← h]

/-- The same of a switch, after which the variant asked for runs. -/
theorem State.switch_frame (s : State) (v : Variant) :
    s.switch v = { s with
      life := .running, variant := v, phase := (s.switch v).phase, leDone := (s.switch v).leDone
      pinsOut := (s.switch v).pinsOut, pinsOe := (s.switch v).pinsOe, osr := (s.switch v).osr
      osrb := (s.switch v).osrb, opc := (s.switch v).opc, txseg := (s.switch v).txseg
      bitcnt := (s.switch v).bitcnt, wcnt := (s.switch v).wcnt, rcnt := (s.switch v).rcnt, isr := (s.switch v).isr
      nr := (s.switch v).nr, holdcnt := (s.switch v).holdcnt, falls := (s.switch v).falls, txf := (s.switch v).txf
      rxf := (s.switch v).rxf, target := (s.switch v).target } := by
  unfold State.switch
  split
  · rename_i h; obtain ⟨h1, h2⟩ := h; simp [← h1, ← h2]
  · rw [State.teardown_frame]; simp [State.load, State.start]

/-- The queues hold nothing more after a teardown or a switch than before it. -/
theorem State.teardown_queues (s : State) :
    s.teardown.txf.length ≤ s.txf.length ∧ s.teardown.rxf.length ≤ s.rxf.length := by
  cases h : s.life <;> simp [State.teardown, h]

theorem State.switch_queues (s : State) (v : Variant) :
    (s.switch v).txf.length ≤ s.txf.length ∧ (s.switch v).rxf.length ≤ s.rxf.length := by
  unfold State.switch
  split
  · simp
  · simpa using s.teardown_queues

/-! ### Failures -/

/-- What `LE.ABORT ; raise LinkTimeout` leaves (41_command_protocol.md R189, 60_exceptions.md R300). -/
theorem State.linkTimeout_fields (s : State) :
    s.linkTimeout.result = .failed .linkTimeout ∧ s.linkTimeout.err = 1#3 ∧ s.linkTimeout.tasks = [] ∧
      (s.life = .running →
        s.linkTimeout.txf = [] ∧ s.linkTimeout.rxf = [] ∧ s.linkTimeout.dcOut = false ∧ s.linkTimeout.ddOe = false) := by
  unfold State.linkTimeout
  refine ⟨by simp, by simp [Failure.code], by simp, fun h => ?_⟩
  obtain ⟨hdc, hdd, _⟩ := s.abort_pins
  simp only [h, if_true]
  exact ⟨rfl, rfl, hdc, hdd⟩

/-! ### Commands -/

/-- A command changes nothing but the target, and it does so by its effect or by losing sight of it. -/
theorem State.command_cases (s : State) (effect : Target → Target) :
    (s.target.inDebug = true ∧ s.command effect = { s with target := effect s.target }) ∨
      (s.target.inDebug = false ∧ s.command effect = { s with target := s.target.unknownCommand s.clock }) := by
  cases h : s.target.inDebug <;> simp [State.command, h]

/-- Bytes delivered to the debug-data buffer are kept for channel A, or target RAM is lost sight of. -/
theorem Target.delivered_cases (t : Target) (cfg : Config) (data : List Byte) :
    (t.armedA = true ∧ t.config = cfg.configEnableDma ∧
      t.delivered cfg data =
        { t with dbg := t.dbg ++ data, pending := if .chA ∈ t.pending then t.pending else t.pending ++ [.chA] }) ∨
      ((t.armedA = false ∨ t.config ≠ cfg.configEnableDma) ∧ t.delivered cfg data = { t with xdata := [] }) := by
  unfold Target.delivered
  cases ha : t.armedA <;> by_cases hc : t.config = cfg.configEnableDma <;> simp [hc]

/-! `loseFlash`: nothing is known of flash -/

@[simp] theorem Target.loseFlash_inDebug (t : Target) : t.loseFlash.inDebug = t.inDebug := rfl
@[simp] theorem Target.loseFlash_falls (t : Target) : t.loseFlash.falls = t.falls := rfl
@[simp] theorem Target.loseFlash_bits (t : Target) : t.loseFlash.bits = t.bits := rfl
@[simp] theorem Target.loseFlash_inbox (t : Target) : t.loseFlash.inbox = t.inbox := rfl
@[simp] theorem Target.loseFlash_resp (t : Target) : t.loseFlash.resp = t.resp := rfl
@[simp] theorem Target.loseFlash_dptr (t : Target) : t.loseFlash.dptr = t.dptr := rfl
@[simp] theorem Target.loseFlash_acc (t : Target) : t.loseFlash.acc = t.acc := rfl
@[simp] theorem Target.loseFlash_config (t : Target) : t.loseFlash.config = t.config := rfl
@[simp] theorem Target.loseFlash_xdata (t : Target) : t.loseFlash.xdata = t.xdata := rfl
@[simp] theorem Target.loseFlash_flash (t : Target) : t.loseFlash.flash = [] := rfl
@[simp] theorem Target.loseFlash_erased (t : Target) : t.loseFlash.erased = false := rfl
@[simp] theorem Target.loseFlash_armedA (t : Target) : t.loseFlash.armedA = t.armedA := rfl
@[simp] theorem Target.loseFlash_armedB (t : Target) : t.loseFlash.armedB = false := rfl
@[simp] theorem Target.loseFlash_dbg (t : Target) : t.loseFlash.dbg = t.dbg := rfl
@[simp] theorem Target.loseFlash_pending (t : Target) : t.loseFlash.pending = t.pending := rfl

/-- The side effects of a store leave XDATA and flash alone but for losing sight of one of them. -/
theorem Target.stored_memories (t : Target) (cfg : Config) (a : Half) (v : Byte) :
    ((t.stored cfg a v).xdata = t.xdata ∨ (t.stored cfg a v).xdata = []) ∧
      ((t.stored cfg a v).flash = t.flash ∨ (t.stored cfg a v).flash = []) := by
  unfold Target.stored Target.armStored Target.delivered Target.loseFlash
  repeat' split
  all_goals simp

/-- A store in the arm register changes nothing but the two arm marks. -/
theorem Target.armStored_frame (t : Target) (cfg : Config) (v : Byte) :
    t.armStored cfg v = { t with armedA := (t.armStored cfg v).armedA, armedB := (t.armStored cfg v).armedB } := by
  unfold Target.armStored
  split <;> rfl

/-- A store to none of the arm register, the flash controller, the flash write-data register and the debug-data buffer has
no side effect. -/
theorem Target.stored_plain (t : Target) (cfg : Config) {a : Half} (v : Byte) (h : a ≠ cfg.addrDmaarm)
    (h' : a ≠ cfg.addrFctl) (h'' : a ≠ cfg.addrFwdata) (h''' : a ≠ cfg.addrDbgdata) : t.stored cfg a v = t := by
  simp [Target.stored, h, h', h'', h''']

end Sys2Proof.Machine
end

