-- ==== Sys2Proof/Laws/PerInstr.lean ====
section
/-! SUPPORT. What is said of every instruction, one lemma per constructor of Instr. Family TableRow: the code the
encoder writes has the width and the fixed bits of the instruction's row of spec/opcode_table.json. -/

namespace Sys2Proof.Laws.TableRow

/-- A row of spec/opcode_table.json: its width, and the bits `mask` fixes at `value` (of a row wider than a word, of its
first word). -/
structure Row where
  width : Nat
  value : Word
  mask : Word

/-- The row of an instruction. -/
def row : Instr → Row
  | .leLoad _ => ⟨8, 0x00000001#32, 0x000000FF#32⟩
  | .leStart => ⟨8, 0x00000002#32, 0x000000FF#32⟩
  | .leStop => ⟨8, 0x00000003#32, 0x000000FF#32⟩
  | .leAbort => ⟨8, 0x00000004#32, 0x000000FF#32⟩
  | .leDeinit => ⟨8, 0x00000005#32, 0x000000FF#32⟩
  | .leSwitch _ => ⟨8, 0x00000006#32, 0x000000FF#32⟩
  | .leAttach => ⟨8, 0x00000007#32, 0x000000FF#32⟩
  | .cpXchg _ => ⟨8, 0x00000010#32, 0x000000FF#32⟩
  | .alWrite _ _ => ⟨8, 0x00000020#32, 0x000000FF#32⟩
  | .alRead _ => ⟨8, 0x00000021#32, 0x000000FF#32⟩
  | .alWriteBlock _ _ => ⟨8, 0x00000022#32, 0x000000FF#32⟩
  | .alReadBlockBanked _ _ => ⟨8, 0x00000023#32, 0x000000FF#32⟩
  | .idLookup _ => ⟨8, 0x00000030#32, 0x000000FF#32⟩
  | .idRead => ⟨8, 0x00000031#32, 0x000000FF#32⟩
  | .fpErase => ⟨8, 0x00000040#32, 0x000000FF#32⟩
  | .fpEnableDma => ⟨8, 0x00000041#32, 0x000000FF#32⟩
  | .fpConfigDma _ => ⟨8, 0x00000042#32, 0x000000FF#32⟩
  | .fpBurstLoad _ _ => ⟨8, 0x00000043#32, 0x000000FF#32⟩
  | .fpProgram => ⟨8, 0x00000044#32, 0x000000FF#32⟩
  | .fpClockInit => ⟨8, 0x00000045#32, 0x000000FF#32⟩
  | .fpWriteBlock _ _ => ⟨8, 0x00000046#32, 0x000000FF#32⟩
  | .frRead _ _ => ⟨8, 0x00000050#32, 0x000000FF#32⟩
  | .toSessionStart => ⟨8, 0x00000060#32, 0x000000FF#32⟩
  | .toWriteAll _ => ⟨8, 0x00000061#32, 0x000000FF#32⟩
  | .toReadAll _ => ⟨8, 0x00000062#32, 0x000000FF#32⟩
  | .toRestart => ⟨8, 0x00000063#32, 0x000000FF#32⟩
  | .toSessionEnd => ⟨8, 0x00000064#32, 0x000000FF#32⟩
  | .simpleWord _ _ _ _ _ => ⟨32, 0x00000000#32, 0x00000000#32⟩
  | .null _ => ⟨32, 0x00000000#32, 0xFF000000#32⟩
  | .chipErase => ⟨32, 0x10000000#32, 0xFF000000#32⟩
  | .wrConfig _ => ⟨32, 0x19000000#32, 0xFF000000#32⟩
  | .readStatus => ⟨32, 0x30000000#32, 0xFF000000#32⟩
  | .debugInstr1 _ => ⟨32, 0x51000000#32, 0xFF000000#32⟩
  | .debugInstr2 _ _ => ⟨32, 0x52000000#32, 0xFF000000#32⟩
  | .debugInstr3 _ _ _ => ⟨32, 0x53000000#32, 0xFF000000#32⟩
  | .tMovDptr _ => ⟨32, 0x53900000#32, 0xFFFF0000#32⟩
  | .tMovA _ => ⟨32, 0x52740000#32, 0xFFFF0000#32⟩
  | .tMovxSt => ⟨32, 0x51F00000#32, 0xFFFF0000#32⟩
  | .tMovxLd => ⟨32, 0x51E00000#32, 0xFFFF0000#32⟩
  | .tIncDptr => ⟨32, 0x51A30000#32, 0xFFFF0000#32⟩
  | .extPrefix _ _ => ⟨32, 0x00000000#32, 0x00000000#32⟩
  | .extStreamWord _ _ _ _ => ⟨32, 0x00000000#32, 0x00000000#32⟩
  | .extNull _ => ⟨32, 0x00000000#32, 0xFF000000#32⟩
  | .getChipId => ⟨32, 0x68000000#32, 0xFF000000#32⟩
  | .burstWrite _ => ⟨32, 0x80000000#32, 0xF8000000#32⟩
  | .respWord _ _ => ⟨32, 0x00000000#32, 0x7FFFFF00#32⟩
  | .dmaDescriptor _ _ _ _ _ => ⟨64, 0x00000000#32, 0x00000000#32⟩
  | .pStopped => ⟨8, 0x00000000#32, 0x000000FF#32⟩
  | .atAssert => ⟨8, 0x00000010#32, 0x000000FF#32⟩
  | .atHold => ⟨8, 0x00000011#32, 0x000000FF#32⟩
  | .atHi => ⟨8, 0x00000012#32, 0x000000FF#32⟩
  | .atHihold => ⟨8, 0x00000013#32, 0x000000FF#32⟩
  | .atLo => ⟨8, 0x00000014#32, 0x000000FF#32⟩
  | .atLohold => ⟨8, 0x00000015#32, 0x000000FF#32⟩
  | .atRelease => ⟨8, 0x00000016#32, 0x000000FF#32⟩
  | .atSettle => ⟨8, 0x00000017#32, 0x000000FF#32⟩
  | .atDone => ⟨8, 0x00000018#32, 0x000000FF#32⟩
  | .cIdleSimple => ⟨8, 0x00000020#32, 0x000000FF#32⟩
  | .cIdleExt => ⟨8, 0x00000020#32, 0x000000FF#32⟩
  | .cFetch0 => ⟨8, 0x00000021#32, 0x000000FF#32⟩
  | .cDirout => ⟨8, 0x00000022#32, 0x000000FF#32⟩
  | .cTxset => ⟨8, 0x00000023#32, 0x000000FF#32⟩
  | .cTxhi => ⟨8, 0x00000024#32, 0x000000FF#32⟩
  | .cTxhold => ⟨8, 0x00000025#32, 0x000000FF#32⟩
  | .cTxlo => ⟨8, 0x00000026#32, 0x000000FF#32⟩
  | .cRefill => ⟨8, 0x00000027#32, 0x000000FF#32⟩
  | .cDirin => ⟨8, 0x00000028#32, 0x000000FF#32⟩
  | .cSample => ⟨8, 0x00000029#32, 0x000000FF#32⟩
  | .cRxhi => ⟨8, 0x0000002A#32, 0x000000FF#32⟩
  | .cRxhold => ⟨8, 0x0000002B#32, 0x000000FF#32⟩
  | .cRxlo => ⟨8, 0x0000002C#32, 0x000000FF#32⟩
  | .cPush => ⟨8, 0x0000002D#32, 0x000000FF#32⟩

/-- The width of a code: eight bits for an operation or a phase, a word, or the eight bytes of a descriptor. -/
def width : Code → Nat
  | .hop _ _ => 8
  | .phase _ _ => 8
  | .desc _ => 64
  | _ => 32

/-- The first word of some bytes. -/
def firstWord (bs : List Byte) : Word := word4 (bs.getD 0 0#8) (bs.getD 1 0#8) (bs.getD 2 0#8) (bs.getD 3 0#8)

/-- The bits of a code, a byte in bits 7:0. -/
def bits : Code → Word
  | .hop c _ => c.zeroExtend 32
  | .phase _ c => c.zeroExtend 32
  | .simple w => w
  | .extPrefix w => w
  | .extStream0 w => w
  | .extStream w => w
  | .resp w => w
  | .command bs => firstWord bs
  | .desc bs => firstWord bs

/-- The family: the encoder writes the row's bits. -/
def Statement (i : Instr) : Prop :=
  wellFormed Config.default i = true →
    width (encode Config.default i) = (row i).width ∧
      bits (encode Config.default i) &&& (row i).mask = (row i).value

/-! ### Masks of a word -/

theorem word4_mask_none (w : Word) : w &&& 0x00000000#32 = 0x00000000#32 := by simp

theorem byte_mask (c : Byte) : c.zeroExtend 32 &&& 0x000000FF#32 = c.zeroExtend 32 := by revert c; decide

theorem ones_and (a : Byte) : a &&& 0xFF#8 = a := by revert a; decide

theorem word4_and (a b c d p q r s : Byte) :
    word4 a b c d &&& word4 p q r s = word4 (a &&& p) (b &&& q) (c &&& r) (d &&& s) := by
  refine (BitVec.and_append (x₁ := a ++ b ++ c) (x₂ := p ++ q ++ r) (y₁ := d) (y₂ := s)).trans ?_
  rw [BitVec.and_append, BitVec.and_append]
  rfl

theorem word4_mask_one (a b c d : Byte) : word4 a b c d &&& 0xFF000000#32 = word4 a 0#8 0#8 0#8 := by
  rw [show (0xFF000000#32 : Word) = word4 0xFF#8 0#8 0#8 0#8 from rfl, word4_and]
  simp [ones_and]

theorem word4_mask_two (a b c d : Byte) : word4 a b c d &&& 0xFFFF0000#32 = word4 a b 0#8 0#8 := by
  rw [show (0xFFFF0000#32 : Word) = word4 0xFF#8 0xFF#8 0#8 0#8 from rfl, word4_and]
  simp [ones_and]

theorem word4_mask_op (a b c d : Byte) : word4 a b c d &&& 0xF8000000#32 = word4 (a &&& 0xF8#8) 0#8 0#8 0#8 := by
  rw [show (0xF8000000#32 : Word) = word4 0xF8#8 0#8 0#8 0#8 from rfl, word4_and]
  simp

theorem command_one {op : Byte} {bs : List Byte} {v : Word} (h : word4 op 0#8 0#8 0#8 = v) :
    bits (.command (op :: bs)) &&& 0xFF000000#32 = v := (word4_mask_one _ _ _ _).trans h

theorem command_two {op b : Byte} {bs : List Byte} {v : Word} (h : word4 op b 0#8 0#8 = v) :
    bits (.command (op :: b :: bs)) &&& 0xFFFF0000#32 = v := (word4_mask_two _ _ _ _).trans h

theorem null_mask (x : BitVec 24) : (Config.default.opNull ++ x : Word) &&& 0xFF000000#32 = 0#32 := by
  rw [show (0xFF000000#32 : Word) = 0xFF#8 ++ 0#24 from rfl, BitVec.and_append]
  simp [Config.default]

theorem resp_mask (nr : Bool) (data : Byte) : respBits nr data &&& 0x7FFFFF00#32 = 0#32 := by
  rw [show (0x7FFFFF00#32 : Word) = BitVec.ofBool false ++ 0x7FFFFF#23 ++ 0#8 from rfl, respBits, BitVec.and_append,
    BitVec.and_append]
  cases nr <;> simp

theorem burst_op (k : Nat) (h : k < 8) : (Config.default.opBurstWrite ||| BitVec.ofNat 8 k) &&& 0xF8#8 = 0x80#8 := by
  revert h k; decide

/-! ### One lemma per constructor -/

theorem leLoad (v : Variant) : Statement (.leLoad v) := fun _ => ⟨rfl, byte_mask 0x01#8⟩
theorem leStart : Statement .leStart := fun _ => ⟨rfl, byte_mask 0x02#8⟩
theorem leStop : Statement .leStop := fun _ => ⟨rfl, byte_mask 0x03#8⟩
theorem leAbort : Statement .leAbort := fun _ => ⟨rfl, byte_mask 0x04#8⟩
theorem leDeinit : Statement .leDeinit := fun _ => ⟨rfl, byte_mask 0x05#8⟩
theorem leSwitch (v : Variant) : Statement (.leSwitch v) := fun _ => ⟨rfl, byte_mask 0x06#8⟩
theorem leAttach : Statement .leAttach := fun _ => ⟨rfl, byte_mask 0x07#8⟩
theorem cpXchg (f : Frame) : Statement (.cpXchg f) := fun _ => ⟨rfl, byte_mask 0x10#8⟩
theorem alWrite (a : Half) (v : Byte) : Statement (.alWrite a v) := fun _ => ⟨rfl, byte_mask 0x20#8⟩
theorem alRead (a : Half) : Statement (.alRead a) := fun _ => ⟨rfl, byte_mask 0x21#8⟩
theorem alWriteBlock (a : Half) (bs : List Byte) : Statement (.alWriteBlock a bs) :=
  fun _ => ⟨rfl, byte_mask 0x22#8⟩
theorem alReadBlockBanked (a n : Nat) : Statement (.alReadBlockBanked a n) := fun _ => ⟨rfl, byte_mask 0x23#8⟩
theorem idLookup (b : Byte) : Statement (.idLookup b) := fun _ => ⟨rfl, byte_mask 0x30#8⟩
theorem idRead : Statement .idRead := fun _ => ⟨rfl, byte_mask 0x31#8⟩
theorem fpErase : Statement .fpErase := fun _ => ⟨rfl, byte_mask 0x40#8⟩
theorem fpEnableDma : Statement .fpEnableDma := fun _ => ⟨rfl, byte_mask 0x41#8⟩
theorem fpConfigDma (len : Nat) : Statement (.fpConfigDma len) := fun _ => ⟨rfl, byte_mask 0x42#8⟩
theorem fpBurstLoad (a : Nat) (bs : List Byte) : Statement (.fpBurstLoad a bs) :=
  fun _ => ⟨rfl, byte_mask 0x43#8⟩
theorem fpProgram : Statement .fpProgram := fun _ => ⟨rfl, byte_mask 0x44#8⟩
theorem fpClockInit : Statement .fpClockInit := fun _ => ⟨rfl, byte_mask 0x45#8⟩
theorem fpWriteBlock (a : Nat) (bs : List Byte) : Statement (.fpWriteBlock a bs) :=
  fun _ => ⟨rfl, byte_mask 0x46#8⟩
theorem frRead (a n : Nat) : Statement (.frRead a n) := fun _ => ⟨rfl, byte_mask 0x50#8⟩
theorem toSessionStart : Statement .toSessionStart := fun _ => ⟨rfl, byte_mask 0x60#8⟩
theorem toWriteAll (src : List Fill) : Statement (.toWriteAll src) := fun _ => ⟨rfl, byte_mask 0x61#8⟩
theorem toReadAll (snk : List Ack) : Statement (.toReadAll snk) := fun _ => ⟨rfl, byte_mask 0x62#8⟩
theorem toRestart : Statement .toRestart := fun _ => ⟨rfl, byte_mask 0x63#8⟩
theorem toSessionEnd : Statement .toSessionEnd := fun _ => ⟨rfl, byte_mask 0x64#8⟩
theorem simpleWord (op6 : BitVec 6) (cnt : BitVec 2) (p0 p1 p2 : Byte) : Statement (.simpleWord op6 cnt p0 p1 p2) :=
  fun _ => ⟨rfl, word4_mask_none _⟩
theorem null (ignored : BitVec 24) : Statement (.null ignored) := fun _ => ⟨rfl, null_mask ignored⟩
theorem chipErase : Statement .chipErase := fun _ => ⟨rfl, command_one rfl⟩
theorem wrConfig (c : Byte) : Statement (.wrConfig c) := fun _ => ⟨rfl, command_one rfl⟩
theorem readStatus : Statement .readStatus := fun _ => ⟨rfl, command_one rfl⟩
theorem debugInstr1 (i0 : Byte) : Statement (.debugInstr1 i0) := fun _ => ⟨rfl, command_one rfl⟩
theorem debugInstr2 (i0 i1 : Byte) : Statement (.debugInstr2 i0 i1) := fun _ => ⟨rfl, command_one rfl⟩
theorem debugInstr3 (i0 i1 i2 : Byte) : Statement (.debugInstr3 i0 i1 i2) := fun _ => ⟨rfl, command_one rfl⟩
theorem tMovDptr (a : Half) : Statement (.tMovDptr a) := fun _ => ⟨rfl, command_two rfl⟩
theorem tMovA (v : Byte) : Statement (.tMovA v) := fun _ => ⟨rfl, command_two rfl⟩
theorem tMovxSt : Statement .tMovxSt := fun _ => ⟨rfl, command_two rfl⟩
theorem tMovxLd : Statement .tMovxLd := fun _ => ⟨rfl, command_two rfl⟩
theorem tIncDptr : Statement .tIncDptr := fun _ => ⟨rfl, command_two rfl⟩
theorem extPrefix (wcount rcount : Half) : Statement (.extPrefix wcount rcount) :=
  fun _ => ⟨rfl, word4_mask_none _⟩
theorem extStreamWord (s0 s1 s2 s3 : Byte) : Statement (.extStreamWord s0 s1 s2 s3) :=
  fun _ => ⟨rfl, word4_mask_none _⟩
theorem extNull (ignored : BitVec 24) : Statement (.extNull ignored) := fun _ => ⟨rfl, null_mask ignored⟩
theorem getChipId : Statement .getChipId := fun _ => ⟨rfl, command_one rfl⟩
theorem burstWrite (data : List Byte) : Statement (.burstWrite data) := by
  intro h
  simp only [wellFormed, Bool.and_eq_true, decide_eq_true_eq] at h
  have hk : data.length / 256 < 8 := by have : data.length ≤ 2047 := h.2; omega
  refine ⟨rfl, (word4_mask_op _ _ _ _).trans ?_⟩
  rw [burstBytes, List.getD_cons_zero, burst_op _ hk]
  rfl

theorem respWord (nr : Bool) (data : Byte) : Statement (.respWord nr data) := fun _ => ⟨rfl, resp_mask nr data⟩
theorem dmaDescriptor (src dst len : Half) (c0 c1 : Byte) : Statement (.dmaDescriptor src dst len c0 c1) :=
  fun _ => ⟨rfl, word4_mask_none _⟩
theorem pStopped : Statement .pStopped := fun _ => ⟨rfl, byte_mask 0x00#8⟩
theorem atAssert : Statement .atAssert := fun _ => ⟨rfl, byte_mask 0x10#8⟩
theorem atHold : Statement .atHold := fun _ => ⟨rfl, byte_mask 0x11#8⟩
theorem atHi : Statement .atHi := fun _ => ⟨rfl, byte_mask 0x12#8⟩
theorem atHihold : Statement .atHihold := fun _ => ⟨rfl, byte_mask 0x13#8⟩
theorem atLo : Statement .atLo := fun _ => ⟨rfl, byte_mask 0x14#8⟩
theorem atLohold : Statement .atLohold := fun _ => ⟨rfl, byte_mask 0x15#8⟩
theorem atRelease : Statement .atRelease := fun _ => ⟨rfl, byte_mask 0x16#8⟩
theorem atSettle : Statement .atSettle := fun _ => ⟨rfl, byte_mask 0x17#8⟩
theorem atDone : Statement .atDone := fun _ => ⟨rfl, byte_mask 0x18#8⟩
theorem cIdleSimple : Statement .cIdleSimple := fun _ => ⟨rfl, byte_mask 0x20#8⟩
theorem cIdleExt : Statement .cIdleExt := fun _ => ⟨rfl, byte_mask 0x20#8⟩
theorem cFetch0 : Statement .cFetch0 := fun _ => ⟨rfl, byte_mask 0x21#8⟩
theorem cDirout : Statement .cDirout := fun _ => ⟨rfl, byte_mask 0x22#8⟩
theorem cTxset : Statement .cTxset := fun _ => ⟨rfl, byte_mask 0x23#8⟩
theorem cTxhi : Statement .cTxhi := fun _ => ⟨rfl, byte_mask 0x24#8⟩
theorem cTxhold : Statement .cTxhold := fun _ => ⟨rfl, byte_mask 0x25#8⟩
theorem cTxlo : Statement .cTxlo := fun _ => ⟨rfl, byte_mask 0x26#8⟩
theorem cRefill : Statement .cRefill := fun _ => ⟨rfl, byte_mask 0x27#8⟩
theorem cDirin : Statement .cDirin := fun _ => ⟨rfl, byte_mask 0x28#8⟩
theorem cSample : Statement .cSample := fun _ => ⟨rfl, byte_mask 0x29#8⟩
theorem cRxhi : Statement .cRxhi := fun _ => ⟨rfl, byte_mask 0x2A#8⟩
theorem cRxhold : Statement .cRxhold := fun _ => ⟨rfl, byte_mask 0x2B#8⟩
theorem cRxlo : Statement .cRxlo := fun _ => ⟨rfl, byte_mask 0x2C#8⟩
theorem cPush : Statement .cPush := fun _ => ⟨rfl, byte_mask 0x2D#8⟩

end Sys2Proof.Laws.TableRow
end

