-- ==== Sys2Proof/Laws/Step.lean ====
section
/-! SUPPORT. What a step can do, said once for each agent: if it answers a next state, then one of these cases holds. -/

namespace Sys2Proof.Machine

/-- A turn of the host context. -/
theorem run_hostMove {u t : State} (h : run u.hostMove = .next t) :
    (∃ (o : SubOp) (rest : List Task), u.tasks = .op o :: rest ∧ exec o.instr { u with tasks := rest } = .next t) ∨
    (∃ (f : Frame) (rest : List Task) (w : Word) (ws : List Word), u.tasks = .await f :: rest ∧ u.rxf = w :: ws ∧
      t = { u with rxf := ws, ws := u.ws ++ [{ nr := w.getLsbD 31, data := w.extractLsb' 0 8 }] }) ∨
    (∃ (k : Task) (rest : List Task), u.tasks = k :: rest ∧ t = stepTask k rest u) ∨
    (∃ (r : Request) (rs : List Request) (i : Instr), u.tasks = [] ∧ u.req = r :: rs ∧ decodeHop r.hop r.args = .ok i ∧
      exec i { u with req := rs } = .next t) ∨
    (∃ (r : Request) (rs : List Request), u.tasks = [] ∧ u.req = r :: rs ∧
      t = { u with req := rs, result := .refused }) ∨
    (u.tasks = [] ∧ u.req = [] ∧ t = u) := by
  unfold State.hostMove at h
  split at h
  · rename_i o rest ht
    exact .inl ⟨o, rest, ht, h⟩
  · rename_i f rest ht
    by_cases hl : u.ws.length < f.rcount
    · rw [if_pos hl] at h
      cases hr : u.rxf with
      | cons w ws =>
        simp only [hr, run, decode, decodeResp, exec, execRespWord, Host.Outcome.next.injEq] at h
        exact .inr (.inl ⟨f, rest, w, ws, ht, rfl, h.symm⟩)
      | nil =>
        rw [hr] at h
        exact .inr (.inr (.inl ⟨_, rest, ht, (Host.Outcome.next.inj h).symm⟩))
    · rw [if_neg hl] at h
      exact .inr (.inr (.inl ⟨_, rest, ht, (Host.Outcome.next.inj h).symm⟩))
  · rename_i k rest _ _ ht
    exact .inr (.inr (.inl ⟨k, rest, ht, (Host.Outcome.next.inj h).symm⟩))
  · rename_i ht
    split at h
    · rename_i r rs hr
      simp only [run, decode] at h
      split at h
      · rename_i i hd
        exact .inr (.inr (.inr (.inl ⟨r, rs, i, ht, hr, hd, h⟩)))
      · simp only [rejected, Host.Outcome.next.injEq] at h
        exact .inr (.inr (.inr (.inr (.inl ⟨r, rs, ht, hr, by rw [← h]; simp [State.refuse, ht]⟩))))
    · rename_i hr
      exact .inr (.inr (.inr (.inr (.inr ⟨ht, hr, (Host.Outcome.next.inj h).symm⟩))))

/-- A step is one turn of the agent that moves. -/
theorem step_next {s t : State} (h : step s = .next t) :
    (s.mover = .host ∧ run s.begin.hostMove = .next t) ∨ (s.mover = .sequencer ∧ run s.begin.seqMove = .next t) ∨
      (s.mover = .target ∧ run s.begin.targetMove = .next t) ∨ (s.mover = .dma ∧ run s.begin.dmaMove = .next t) := by
  unfold step at h
  cases hm : s.mover <;> rw [hm] at h
  · exact .inl ⟨rfl, h⟩
  · exact .inr (.inl ⟨rfl, h⟩)
  · exact .inr (.inr (.inl ⟨rfl, h⟩))
  · exact .inr (.inr (.inr ⟨rfl, h⟩))

/-- A turn of the target. -/
theorem run_targetMove {u t : State} (h : run u.targetMove = .next t) :
    (∃ (f : List Byte) (fs : List (List Byte)) (i : Instr), u.target.inbox = f :: fs ∧
      decodeCommand u.cfg f = .ok i ∧ exec i { u with target := { u.target with inbox := fs } } = .next t) ∨
    (∃ (f : List Byte) (fs : List (List Byte)), u.target.inbox = f :: fs ∧
      t = { u with target := { u.target with inbox := fs }.unknownCommand u.clock }) ∨
    (u.target.inbox = [] ∧ t = u) := by
  unfold State.targetMove at h
  split at h
  · rename_i f fs ht
    simp only [run, decode] at h
    split at h
    · rename_i i hd
      exact .inl ⟨f, fs, i, ht, hd, h⟩
    · simp only [rejected, Host.Outcome.next.injEq] at h
      exact .inr (.inl ⟨f, fs, ht, h.symm⟩)
  · rename_i ht
    exact .inr (.inr ⟨ht, (Host.Outcome.next.inj h).symm⟩)

/-- A turn of the DMA controller. -/
theorem run_dmaMove {u t : State} (h : run u.dmaMove = .next t) :
    (∃ (c : Channel) (cs : List Channel) (src dst len : Half) (c0 c1 : Byte), u.target.pending = c :: cs ∧
      exec (.dmaDescriptor src dst len c0 c1) { u with target := { u.target with pending := cs } } = .next t) ∨
    (∃ (c : Channel) (cs : List Channel), u.target.pending = c :: cs ∧
      t = { u with target := { u.target with pending := cs }.forget u.clock }) ∨
    t = u := by
  unfold State.dmaMove at h
  split at h
  · rename_i c cs hp
    split at h
    · simp only [run, decode] at h
      split at h
      · rename_i i hd
        obtain ⟨src, dst, len, c0, c1, rfl⟩ := decodeDesc_isDescriptor hd
        exact .inl ⟨c, cs, src, dst, len, c0, c1, hp, h⟩
      · simp only [rejected, Host.Outcome.next.injEq] at h
        exact .inr (.inl ⟨c, cs, hp, h.symm⟩)
    · exact .inr (.inl ⟨c, cs, hp, (Host.Outcome.next.inj h).symm⟩)
  · exact .inr (.inr (Host.Outcome.next.inj h).symm)

/-- What the DMA controller's instruction can do. -/
theorem execDmaDescriptor_cases {src dst len : Half} {c0 c1 : Byte} {s t : State}
    (h : exec (.dmaDescriptor src dst len c0 c1) s = .next t) :
    t = { s with target := s.target.forget s.clock } ∨ t = { s with target := s.target.transferA dst len } ∨
      (∃ start : Nat, s.target.flashStart s.cfg = some start ∧ start + len.toNat ≤ flashSize ∧
        t = { s with target := s.target.transferB start src len }) ∨
      t = { s with target := s.target.loseFlash } := by
  simp only [exec, execDmaDescriptor] at h
  repeat' split at h
  all_goals first | contradiction | (simp only [Host.Outcome.next.injEq] at h; subst h)
  · exact .inl rfl
  · exact .inr (.inl rfl)
  · rename_i start hst hfit; exact .inr (.inr (.inl ⟨start, hst, hfit, rfl⟩))
  · exact .inr (.inr (.inr rfl))
  · exact .inr (.inr (.inr rfl))
  · exact .inl rfl

/-- The DMA controller's instruction leaves what the target has taken from the wire and has still to give on it
(20_memory.md R81). -/
theorem execDmaDescriptor_wire {src dst len : Half} {c0 c1 : Byte} {s t : State}
    (h : exec (.dmaDescriptor src dst len c0 c1) s = .next t) :
    t = { s with target := t.target } ∧ t.target.resp = s.target.resp ∧ t.target.inbox = s.target.inbox ∧
      t.target.bits = s.target.bits ∧ t.target.falls = s.target.falls ∧ t.target.inDebug = s.target.inDebug := by
  rcases execDmaDescriptor_cases h with rfl | rfl | ⟨start, _, _, rfl⟩ | rfl
  · simp
  · unfold Target.transferA; split <;> simp
  · unfold Target.transferB; split
    · rw [Target.programBytes_frame]; simp
    · simp [Target.loseFlash]
  · simp [Target.loseFlash]

/-- The phase the sequencer is at, and the word it takes in that phase (30_encoding.md R114). -/
theorem seqMove_cases (s : State) :
    (s.life ≠ .running ∧ s.seqMove = .code (.phase s.variant 0x00#8) s) ∨
    (s.life = .running ∧ s.seqMove = .code (.phase s.variant s.phase.code) s) ∨
    (∃ (w : Word) (rest : List Word), s.life = .running ∧ s.txf = w :: rest ∧
      ((s.phase = .cIdle ∧ s.variant = .vSimple ∧ s.seqMove = .code (.simple w) { s with txf := rest }) ∨
        (s.phase = .cIdle ∧ s.variant = .vExt ∧ s.seqMove = .code (.extPrefix w) { s with txf := rest }) ∨
        (s.phase = .cFetch0 ∧ s.variant = .vExt ∧ s.seqMove = .code (.extStream0 w) { s with txf := rest }) ∨
        (s.phase = .cRefill ∧ s.variant = .vExt ∧ s.seqMove = .code (.extStream w) { s with txf := rest }))) := by
  by_cases hr : s.life = .running
  · cases ht : s.txf with
    | nil =>
      refine .inr (.inl ⟨hr, ?_⟩)
      unfold State.seqMove
      rw [if_pos hr, ht]
      cases s.phase <;> cases s.variant <;> rfl
    | cons w rest =>
      cases hp : s.phase <;> cases hv : s.variant <;>
        first
          | (refine .inr (.inl ⟨hr, ?_⟩); unfold State.seqMove; rw [if_pos hr, ht, hp, hv]; done)
          | (refine .inr (.inr ⟨w, rest, hr, rfl, ?_⟩); unfold State.seqMove; rw [if_pos hr, ht, hp, hv]; simp)
  · exact .inl ⟨hr, by unfold State.seqMove; rw [if_neg hr]; rfl⟩

end Sys2Proof.Machine
end

