-- ==== Sys2Proof/Tests/Slice0.lean ====
section
/-! SUPPORT. The model's own tests: the checks of WellFormed.lean refuse ill-formed terms; every constructor's decoding
from a code written out from the spec; one step of single instructions, with the results of the spec's rules and of
95_test_vectors.md; and, for every obligation with hypotheses, a state and operands that meet them. -/

namespace Sys2Proof.Tests

open Sys2Proof.Machine

/-! ### Small states -/

/-- The owner holds the block. -/
def held : State := { State.reset with owner := .held }

/-- A session whose chip is identified. -/
def session : State := { held with chipState := .identified }

/-- An engine with a variant loaded and not started. -/
def loaded (v : Variant) : State := { held with life := .loaded, variant := v }

/-- An engine running a variant at a phase. -/
def engine (v : Variant) (p : Phase) : State := { held with life := .running, variant := v, phase := p }

/-- A target in debug mode. -/
def debugTarget : Target := { Target.atPowerOn with inDebug := true }

/-- The state whose target that is. -/
def withTarget : State := { State.reset with target := debugTarget }

/-- The next step is this agent's. -/
def turnOf (a : Agent) (s : State) : State := { s with turns := [a] }

/-- A property of the next state. -/
def after (o : Host.Outcome State Fault Refusal) (p : State → Bool) : Bool :=
  match o with
  | .next t => p t
  | _ => false

/-- A frame of one debug instruction. -/
def statusRead : Frame := { kind := .simple, op := 0x30#8, payload := [], rcount := 1 }

/-- A frame without response (95_test_vectors.md V-E2). -/
def noResponse : Frame := { kind := .ext, op := 0x10#8, payload := [], rcount := 0 }

/-! ### WellFormed refuses -/

theorem test_illformed_leLoad : wellFormed Config.default (.leLoad .vNone) = false := by decide
theorem test_illformed_leSwitch : wellFormed Config.default (.leSwitch .vNone) = false := by decide
theorem test_illformed_cpXchg_simple_count : wellFormed Config.default (.cpXchg { kind := .simple, op := 0x51#8, payload := [], rcount := 1 }) = false := by decide
theorem test_illformed_cpXchg_simple_rcount : wellFormed Config.default (.cpXchg { kind := .simple, op := 0x30#8, payload := [], rcount := 2 }) = false := by decide
theorem test_illformed_cpXchg_ext_null : wellFormed Config.default (.cpXchg { kind := .ext, op := 0x00#8, payload := [1#8], rcount := 1 }) = false := by decide
theorem test_illformed_cpXchg_ext_rcount : wellFormed Config.default (.cpXchg { kind := .ext, op := 0x10#8, payload := [], rcount := 65536 }) = false := by decide
/-- V-E2: a burst that declares no data byte. -/
theorem test_illformed_cpXchg_burst : wellFormed Config.default (.cpXchg { kind := .ext, op := 0x80#8, payload := [0#8], rcount := 1 }) = false := by decide
theorem test_illformed_alWriteBlock : wellFormed Config.default (.alWriteBlock 0xFFFF#16 [1#8, 2#8]) = false := by decide
theorem test_illformed_alReadBlockBanked : wellFormed Config.default (.alReadBlockBanked 0x3FFFF 2) = false := by decide
theorem test_illformed_fpConfigDma_zero : wellFormed Config.default (.fpConfigDma 0) = false := by decide
theorem test_illformed_fpConfigDma_multiple : wellFormed Config.default (.fpConfigDma 3) = false := by decide
theorem test_illformed_fpConfigDma_max : wellFormed Config.default (.fpConfigDma 2048) = false := by decide
theorem test_illformed_fpBurstLoad_aligned : wellFormed Config.default (.fpBurstLoad 2 [1#8]) = false := by decide
theorem test_illformed_fpBurstLoad_range : wellFormed Config.default (.fpBurstLoad 0x3FFFC [1#8, 2#8, 3#8, 4#8, 5#8]) = false := by decide
theorem test_illformed_fpBurstLoad_empty : wellFormed Config.default (.fpBurstLoad 0 []) = false := by decide
theorem test_illformed_fpWriteBlock : wellFormed Config.default (.fpWriteBlock 0 [1#8, 2#8, 3#8]) = false := by decide
theorem test_illformed_frRead : wellFormed Config.default (.frRead 0x40000 1) = false := by decide
theorem test_illformed_simpleWord : wellFormed Config.default (.simpleWord 0#6 0#2 1#8 2#8 3#8) = false := by decide
theorem test_illformed_debugInstr1 : wellFormed Config.default (.debugInstr1 0xF0#8) = false := by decide
theorem test_illformed_debugInstr2 : wellFormed Config.default (.debugInstr2 0x74#8 0#8) = false := by decide
theorem test_illformed_debugInstr3 : wellFormed Config.default (.debugInstr3 0x90#8 0#8 0#8) = false := by decide
theorem test_illformed_burstWrite : wellFormed Config.default (.burstWrite []) = false := by decide
theorem test_illformed_toWriteAll :
    wellFormed { Config.default with blockSize := 1 } (.toWriteAll [.bytes [1#8, 2#8]]) = false := by decide
theorem test_illformed_opcodes : { Config.default with opWrConfig := 0x10#8 }.opcodesDistinct = false := by decide
theorem test_wellformed_boundaries :
    wellFormed Config.default (.alWriteBlock 0xFFFF#16 [1#8]) = true ∧
    wellFormed Config.default (.frRead 0x3FFFF 1) = true ∧
    wellFormed Config.default (.fpConfigDma 2044) = true ∧
    wellFormed Config.default (.fpBurstLoad 0x3FFFC [1#8, 2#8, 3#8, 4#8]) = true ∧
    Config.default.opcodesDistinct = true := by decide

/-! ### Decoding: each code written out from 30_encoding.md R96 to R120 and 10_state.md R28 -/

theorem test_decode_leLoad : decode Config.default (.hop 0x01#8 { variant := .vAttach }) = .ok (.leLoad .vAttach) := by decide
theorem test_decode_leStart : decode Config.default (.hop 0x02#8 {}) = .ok (.leStart) := by decide
theorem test_decode_leStop : decode Config.default (.hop 0x03#8 {}) = .ok (.leStop) := by decide
theorem test_decode_leAbort : decode Config.default (.hop 0x04#8 {}) = .ok (.leAbort) := by decide
theorem test_decode_leDeinit : decode Config.default (.hop 0x05#8 {}) = .ok (.leDeinit) := by decide
theorem test_decode_leSwitch : decode Config.default (.hop 0x06#8 { variant := .vExt }) = .ok (.leSwitch .vExt) := by decide
theorem test_decode_leAttach : decode Config.default (.hop 0x07#8 {}) = .ok (.leAttach) := by decide
theorem test_decode_cpXchg :
    decode Config.default (.hop 0x10#8 { kind := .ext, op := 0x68#8, rcount := 2 }) =
      .ok (.cpXchg { kind := .ext, op := 0x68#8, payload := [], rcount := 2 }) := by decide
theorem test_decode_alWrite :
    decode Config.default (.hop 0x20#8 { addr := 0x70C7, byte := 0x03#8 }) = .ok (.alWrite 0x70C7#16 0x03#8) := by decide
theorem test_decode_alRead : decode Config.default (.hop 0x21#8 { addr := 0x6270 }) = .ok (.alRead 0x6270#16) := by decide
theorem test_decode_alWriteBlock :
    decode Config.default (.hop 0x22#8 { addr := 0x0200, bytes := [0x62#8, 0x60#8] }) =
      .ok (.alWriteBlock 0x0200#16 [0x62#8, 0x60#8]) := by decide
theorem test_decode_alReadBlockBanked :
    decode Config.default (.hop 0x23#8 { addr := 0x07FFE, len := 4 }) = .ok (.alReadBlockBanked 0x07FFE 4) := by decide
theorem test_decode_idLookup : decode Config.default (.hop 0x30#8 { byte := 0xA5#8 }) = .ok (.idLookup 0xA5#8) := by decide
theorem test_decode_idRead : decode Config.default (.hop 0x31#8 {}) = .ok (.idRead) := by decide
theorem test_decode_fpErase : decode Config.default (.hop 0x40#8 {}) = .ok (.fpErase) := by decide
theorem test_decode_fpEnableDma : decode Config.default (.hop 0x41#8 {}) = .ok (.fpEnableDma) := by decide
theorem test_decode_fpConfigDma : decode Config.default (.hop 0x42#8 { len := 512 }) = .ok (.fpConfigDma 512) := by decide
theorem test_decode_fpBurstLoad :
    decode Config.default (.hop 0x43#8 { addr := 0x18000, bytes := [0xDE#8] }) = .ok (.fpBurstLoad 0x18000 [0xDE#8]) := by
  decide
theorem test_decode_fpProgram : decode Config.default (.hop 0x44#8 {}) = .ok (.fpProgram) := by decide
theorem test_decode_fpClockInit : decode Config.default (.hop 0x45#8 {}) = .ok (.fpClockInit) := by decide
theorem test_decode_fpWriteBlock :
    decode Config.default (.hop 0x46#8 { addr := 0x18000, bytes := [0xDE#8] }) = .ok (.fpWriteBlock 0x18000 [0xDE#8]) := by
  decide
theorem test_decode_frRead :
    decode Config.default (.hop 0x50#8 { addr := 0x07FFE, len := 4 }) = .ok (.frRead 0x07FFE 4) := by decide
theorem test_decode_toSessionStart : decode Config.default (.hop 0x60#8 {}) = .ok (.toSessionStart) := by decide
theorem test_decode_toWriteAll :
    decode Config.default (.hop 0x61#8 { src := [.storageError 7] }) = .ok (.toWriteAll [.storageError 7]) := by decide
theorem test_decode_toReadAll :
    decode Config.default (.hop 0x62#8 { snk := [.accepted] }) = .ok (.toReadAll [.accepted]) := by decide
theorem test_decode_toRestart : decode Config.default (.hop 0x63#8 {}) = .ok (.toRestart) := by decide
theorem test_decode_toSessionEnd : decode Config.default (.hop 0x64#8 {}) = .ok (.toSessionEnd) := by decide
theorem test_decode_simpleWord :
    decode Config.default (.simple 0x53906270#32) = .ok (.simpleWord 0x14#6 3#2 0x90#8 0x62#8 0x70#8) := by decide
theorem test_decode_null : decode Config.default (.simple 0x00ABCDEF#32) = .ok (.null 0xABCDEF#24) := by decide
theorem test_decode_chipErase : decode Config.default (.command [0x10#8]) = .ok (.chipErase) := by decide
theorem test_decode_wrConfig : decode Config.default (.command [0x19#8, 0x22#8]) = .ok (.wrConfig 0x22#8) := by decide
theorem test_decode_readStatus : decode Config.default (.command [0x30#8]) = .ok (.readStatus) := by decide
theorem test_decode_debugInstr1 :
    decode Config.default (.command [0x51#8, 0x00#8]) = .ok (.debugInstr1 0x00#8) := by decide
theorem test_decode_debugInstr2 :
    decode Config.default (.command [0x52#8, 0x01#8, 0x02#8]) = .ok (.debugInstr2 0x01#8 0x02#8) := by decide
theorem test_decode_debugInstr3 :
    decode Config.default (.command [0x53#8, 0x02#8, 0x12#8, 0x34#8]) = .ok (.debugInstr3 0x02#8 0x12#8 0x34#8) := by decide
theorem test_decode_tMovDptr :
    decode Config.default (.command [0x53#8, 0x90#8, 0x62#8, 0x70#8]) = .ok (.tMovDptr 0x6270#16) := by decide
theorem test_decode_tMovA : decode Config.default (.command [0x52#8, 0x74#8, 0xAB#8]) = .ok (.tMovA 0xAB#8) := by decide
theorem test_decode_tMovxSt : decode Config.default (.command [0x51#8, 0xF0#8]) = .ok (.tMovxSt) := by decide
theorem test_decode_tMovxLd : decode Config.default (.command [0x51#8, 0xE0#8]) = .ok (.tMovxLd) := by decide
theorem test_decode_tIncDptr : decode Config.default (.command [0x51#8, 0xA3#8]) = .ok (.tIncDptr) := by decide
theorem test_decode_extPrefix :
    decode Config.default (.extPrefix 0x00050001#32) = .ok (.extPrefix 5#16 1#16) := by decide
theorem test_decode_extStreamWord :
    decode Config.default (.extStream0 0x8004DEAD#32) = .ok (.extStreamWord 0x80#8 0x04#8 0xDE#8 0xAD#8) := by decide
theorem test_decode_extStreamWord_refill :
    decode Config.default (.extStream 0x00112233#32) = .ok (.extStreamWord 0x00#8 0x11#8 0x22#8 0x33#8) := by decide
theorem test_decode_extNull : decode Config.default (.extStream0 0x00000000#32) = .ok (.extNull 0#24) := by decide
theorem test_decode_getChipId : decode Config.default (.command [0x68#8]) = .ok (.getChipId) := by decide
theorem test_decode_burstWrite :
    decode Config.default (.command [0x80#8, 0x03#8, 0xAA#8, 0xBB#8, 0xCC#8]) = .ok (.burstWrite [0xAA#8, 0xBB#8, 0xCC#8]) := by decide
theorem test_decode_respWord : decode Config.default (.resp 0x7FFFFF24#32) = .ok (.respWord false 0x24#8) := by decide
theorem test_decode_dmaDescriptor :
    decode Config.default (.desc [0x62#8, 0x60#8, 0x00#8, 0x00#8, 0x02#8, 0x00#8, 0x1F#8, 0x11#8]) =
      .ok (.dmaDescriptor 0x6260#16 0x0000#16 0x0200#16 0x1F#8 0x11#8) := by decide
theorem test_decode_pStopped : decode Config.default (.phase .vNone 0x00#8) = .ok (.pStopped) := by decide
theorem test_decode_atAssert : decode Config.default (.phase .vAttach 0x10#8) = .ok (.atAssert) := by decide
theorem test_decode_atHold : decode Config.default (.phase .vAttach 0x11#8) = .ok (.atHold) := by decide
theorem test_decode_atHi : decode Config.default (.phase .vAttach 0x12#8) = .ok (.atHi) := by decide
theorem test_decode_atHihold : decode Config.default (.phase .vAttach 0x13#8) = .ok (.atHihold) := by decide
theorem test_decode_atLo : decode Config.default (.phase .vAttach 0x14#8) = .ok (.atLo) := by decide
theorem test_decode_atLohold : decode Config.default (.phase .vAttach 0x15#8) = .ok (.atLohold) := by decide
theorem test_decode_atRelease : decode Config.default (.phase .vAttach 0x16#8) = .ok (.atRelease) := by decide
theorem test_decode_atSettle : decode Config.default (.phase .vAttach 0x17#8) = .ok (.atSettle) := by decide
theorem test_decode_atDone : decode Config.default (.phase .vAttach 0x18#8) = .ok (.atDone) := by decide
theorem test_decode_cIdleSimple : decode Config.default (.phase .vSimple 0x20#8) = .ok (.cIdleSimple) := by decide
theorem test_decode_cIdleExt : decode Config.default (.phase .vExt 0x20#8) = .ok (.cIdleExt) := by decide
theorem test_decode_cFetch0 : decode Config.default (.phase .vExt 0x21#8) = .ok (.cFetch0) := by decide
theorem test_decode_cDirout : decode Config.default (.phase .vExt 0x22#8) = .ok (.cDirout) := by decide
theorem test_decode_cTxset : decode Config.default (.phase .vSimple 0x23#8) = .ok (.cTxset) := by decide
theorem test_decode_cTxhi : decode Config.default (.phase .vExt 0x24#8) = .ok (.cTxhi) := by decide
theorem test_decode_cTxhold : decode Config.default (.phase .vSimple 0x25#8) = .ok (.cTxhold) := by decide
theorem test_decode_cTxlo : decode Config.default (.phase .vExt 0x26#8) = .ok (.cTxlo) := by decide
theorem test_decode_cRefill : decode Config.default (.phase .vExt 0x27#8) = .ok (.cRefill) := by decide
theorem test_decode_cDirin : decode Config.default (.phase .vSimple 0x28#8) = .ok (.cDirin) := by decide
theorem test_decode_cSample : decode Config.default (.phase .vExt 0x29#8) = .ok (.cSample) := by decide
theorem test_decode_cRxhi : decode Config.default (.phase .vSimple 0x2A#8) = .ok (.cRxhi) := by decide
theorem test_decode_cRxhold : decode Config.default (.phase .vExt 0x2B#8) = .ok (.cRxhold) := by decide
theorem test_decode_cRxlo : decode Config.default (.phase .vSimple 0x2C#8) = .ok (.cRxlo) := by decide
theorem test_decode_cPush : decode Config.default (.phase .vExt 0x2D#8) = .ok (.cPush) := by decide

theorem test_reject_hop : decode Config.default (.hop 0x08#8 {}) = .error .unassignedHop := by decide
theorem test_reject_address : decode Config.default (.hop 0x21#8 { addr := 0x10000 }) = .error .operandRange := by decide
theorem test_reject_phase : decode Config.default (.phase .vSimple 0x2E#8) = .error .reservedPhase := by decide
theorem test_reject_variant : decode Config.default (.phase .vSimple 0x27#8) = .error .phaseOfAnotherVariant := by decide
theorem test_reject_opcode : decode Config.default (.command [0x01#8, 0x00#8]) = .error .unassignedOpcode := by decide
theorem test_reject_payload : decode Config.default (.command [0x19#8]) = .error .payloadLength := by decide
theorem test_reject_burst : decode Config.default (.command [0x80#8, 0x02#8, 0xAA#8]) = .error .payloadLength := by decide
theorem test_reject_empty : decode Config.default (.command []) = .error .emptyCommand := by decide
theorem test_reject_descriptor : decode Config.default (.desc [0x62#8]) = .error .descriptorLength := by decide

/-- A bare word of the table, as `decodeTableWord` reads it. -/
theorem test_table_words :
    decodeTableWord 8 0x60 = some .toSessionStart ∧ decodeTableWord 8 0x2D = some .cPush ∧
    decodeTableWord 32 0x53900000 = some (.tMovDptr 0#16) ∧ decodeTableWord 32 0 = some (.null 0#24) ∧
    decodeTableWord 64 0 = some (.dmaDescriptor 0#16 0#16 0#16 0#8 0#8) ∧ decodeTableWord 16 0 = none := by decide

/-! ### One instruction -/


/-- 40_link_engine.md R133, its example. -/
theorem test_leLoad :
    after (exec (.leLoad .vAttach) held) (fun t => t.life == .loaded && t.variant == .vAttach) = true := by decide

/-- 95_test_vectors.md, failures: `LE.LOAD V_EXT` with `LE_LIFE = LOADED`. -/
theorem test_leLoad_refused :
    after (exec (.leLoad .vExt) (loaded .vSimple)) (fun t => t.variant == .vSimple && t.result == .refused) = true := by decide

/-- 40_link_engine.md R134, its example. -/
theorem test_leStart :
    after (exec .leStart (loaded .vSimple)) (fun t => t.life == .running && t.phase == .cIdle) = true := by decide

/-- 40_link_engine.md R136, its example. -/
theorem test_leAbort :
    after (exec .leAbort { engine .vSimple .cRxhold with pinsOut := 0b110#3, rxf := [0xA5#32] })
      (fun t => t.rxf == [] && !t.dcOut && t.phase == .cIdle && t.life == .running) = true := by decide

/-- V-A3. -/
theorem test_leAbort_attach :
    after (exec .leAbort { engine .vAttach .atLo with pinsOut := 0b010#3 })
      (fun t => t.rstnOut && !t.dcOut && !t.ddOe && !t.leDone && t.phase == .atDone) = true := by decide

/-- 40_link_engine.md R135. -/
theorem test_leStop :
    after (exec .leStop { engine .vExt .cRefill with pinsOe := 0b111#3 })
      (fun t => t.life == .loaded && t.phase == .pStopped && !t.ddOe) = true := by decide

/-- 95_test_vectors.md, failures: `LE.DEINIT` with `LE_LIFE = RUNNING`. -/
theorem test_leDeinit_refused :
    after (exec .leDeinit (engine .vExt .cIdle)) (fun t => t.life == .running && t.result == .refused) = true := by decide

/-- V-P5. -/
theorem test_leSwitch :
    after (exec (.leSwitch .vSimple) (engine .vExt .cIdle))
      (fun t => t.variant == .vSimple && t.phase == .cIdle && t.pinsOut == 0b100#3) = true := by decide

/-- 40_link_engine.md R139. -/
theorem test_leAttach :
    after (exec .leAttach (engine .vExt .cIdle)) (fun t => t.phase == .atAssert && t.tasks == [.waitDone]) = true := by decide

/-- V-P1. -/
theorem test_cpXchg :
    after (exec (.cpXchg statusRead) (engine .vSimple .cIdle))
      (fun t => t.tasks == [.send [0x30000000#32], .await statusRead]) = true := by decide

/-- V-P6. -/
theorem test_cpXchg_free :
    after (exec (.cpXchg statusRead) State.reset) (fun t => t.txf == [] && t.result == .refused) = true := by decide

/-- V-E2: `EXT 0x80 [0x00] r=1` is refused. -/
theorem test_cpXchg_empty_burst :
    after (exec (.cpXchg { kind := .ext, op := 0x80#8, payload := [0#8], rcount := 1 }) (engine .vExt .cIdle))
      (fun t => t.txf == [] && t.result == .refused) = true := by decide

/-- 42_access_layer.md R212: three frames and the return. -/
theorem test_alWrite :
    after (exec (.alWrite 0x70C7#16 0x03#8) held) (fun t => t.tasks.length == 4) = true := by decide

/-- 42_access_layer.md R213: two frames. -/
theorem test_alRead :
    after (exec (.alRead 0x6270#16) held) (fun t => t.tasks.length == 2) = true := by decide

/-- 42_access_layer.md R215: `n = 0` sends only the pointer load. -/
theorem test_alWriteBlock_empty :
    after (exec (.alWriteBlock 0x0200#16 []) held) (fun t => t.tasks.length == 2) = true := by decide

/-- 42_access_layer.md R215: a range past 0xFFFF. -/
theorem test_alWriteBlock_range :
    after (exec (.alWriteBlock 0xFFFF#16 [1#8, 2#8]) held) (fun t => t.result == .refused) = true := by decide

/-- S2 and P4. -/
theorem test_bank_window :
    bankOf 0x18000 = 3 ∧ bankOf 0 = 0 ∧ xaddrOf Config.default 0x07FFE = 0xFFFE#16 ∧
      xaddrOf Config.default 0x08000 = 0x8000#16 := by decide

/-- S1. -/
theorem test_idLookup :
    [0xA5#8, 0xB5#8, 0x95#8, 0x43#8, 0x44#8, 0x45#8, 0x00#8, 0x42#8, 0x46#8, 0xA4#8].map chipLookup =
      [some .cc2530, some .cc2531, some .cc2533, some .cc2543, some .cc2544, some .cc2545, none, none, none, none] := by decide

/-- P1, the variant with an unknown chip. -/
theorem test_identify_unknown :
    after (.next (stepIdentify [] { held with result := .ident 0x42#8 0x00#8 }))
      (fun t => t.chipState == .unidentified && t.chipId == 0x42#8 && t.err == 2#3 && t.fpState == .failed) = true := by decide

/-- 43_flash_program.md R238. -/
theorem test_fpErase :
    after (exec .fpErase session) (fun t => t.fpState == .erasing) = true := by decide

/-- P3: the enable write, six writes and the end. -/
theorem test_fpConfigDma :
    after (exec (.fpConfigDma 4) { session with fpState := .configDma }) (fun t => t.tasks.length == 8) = true := by decide

/-- V-E2: `FP.CONFIG_DMA` refuses `L = 3`. -/
theorem test_fpConfigDma_refused :
    after (exec (.fpConfigDma 3) { session with fpState := .configDma }) (fun t => t.result == .refused) = true := by decide

/-- S3. -/
theorem test_descriptors :
    descA Config.default 2044 = [0x62#8, 0x60#8, 0x00#8, 0x00#8, 0x07#8, 0xFC#8, 0x1F#8, 0x11#8] ∧
      descB Config.default 4 = [0x00#8, 0x00#8, 0x62#8, 0x73#8, 0x00#8, 0x04#8, 0x12#8, 0x42#8] := by decide

/-- 20_memory.md R72; P3, P5. -/
theorem test_flash_registers :
    faddrH 0x18000 = 0x60#8 ∧ faddrL 0x18000 = 0x00#8 ∧ faddrL 0x00200 = 0x80#8 ∧ faddrH 0x3FFFC = 0xFF#8 := by decide

/-- 43_flash_program.md R250 to R253. -/
theorem test_fpProgram :
    after (exec .fpProgram { session with fpState := .programming }) (fun t => t.tasks.length == 4) = true := by decide

/-- 95_test_vectors.md, failures: no FP operation is legal in FP_FAILED. -/
theorem test_fpWriteBlock_failed :
    after (exec (.fpWriteBlock 0 [1#8, 2#8, 3#8, 4#8]) { session with fpState := .failed })
      (fun t => t.result == .refused) = true := by decide

/-- 95_test_vectors.md, failures, and P6: no FP operation is legal in FP_FAILED. -/
theorem test_fpEnableDma_failed :
    after (exec .fpEnableDma { session with fpState := .failed })
      (fun t => t.result == .refused && t.tasks == []) = true := by decide

/-- 43_flash_program.md R236: with CLOCK_INIT false the two clock registers are never accessed. -/
theorem test_fpClockInit_false :
    after (exec .fpClockInit session) (fun t => t.result == .unit && t.tasks == []) = true := by decide

/-- P4. -/
theorem test_frRead :
    after (exec (.frRead 0x07FFE 4) session) (fun t => t.tasks == [.op (.readBanked 0x07FFE 4)]) = true := by decide

/-- P1; S4: 512 blocks. -/
theorem test_toSessionStart :
    after (exec .toSessionStart State.reset) (fun t => t.owner == .held && t.toNblk == 512#19) = true := by decide

/-- 44_flash_read_and_transfer.md R276. -/
theorem test_toWriteAll :
    after (exec (.toWriteAll []) session) (fun t => t.toMode == .write && t.tasks == [.op .erase, .writeLoop []]) = true := by decide

/-- S4: the unfilled suffix is 0xFF. -/
theorem test_short_block :
    paddedBlock { Config.default with blockSize := 4 } [1#8, 2#8] = [1#8, 2#8, 0xFF#8, 0xFF#8] := by decide

/-- 95_test_vectors.md, failures: a pass with `ERR != 0`. -/
theorem test_toReadAll :
    after (exec (.toReadAll []) { session with err := 1#3 }) (fun t => t.result == .refused) = true := by decide

/-- P6, its restart, before the delay. -/
theorem test_toRestart :
    after (exec .toRestart { engine .vSimple .cIdle with err := 1#3, fpState := .failed })
      (fun t => t.err == 0#3 && t.fpState == .idle && t.life == .unloaded && t.owner == .held) = true := by decide

/-- 60_exceptions.md R305: ERR is kept. -/
theorem test_toSessionEnd :
    after (exec .toSessionEnd { engine .vSimple .cIdle with err := 1#3 })
      (fun t => t.err == 1#3 && t.owner == .free && t.life == .unloaded && t.rstnOut) = true := by decide

/-- 40_link_engine.md R150, its example. -/
theorem test_cIdleSimple :
    after (exec .cIdleSimple { engine .vSimple .cIdle with txf := [0x30000000#32] })
      (fun t => t.opc == Reg.of 0x30#8 && t.bitcnt == Reg.of 6#4 && t.phase == .cDirout && t.txf == []) = true := by decide

/-- 40_link_engine.md R151, its example. -/
theorem test_cIdleExt :
    after (exec .cIdleExt { engine .vExt .cIdle with txf := [0x00000002#32] })
      (fun t => t.wcnt == Reg.of 0#16 && t.rcnt == Reg.of 2#16 && t.phase == .cFetch0) = true := by decide

/-- 40_link_engine.md R150 on the word of `T.MOV_A 0xAB`. -/
theorem test_simpleWord :
    after (exec (.simpleWord 0x14#6 2#2 0x74#8 0xAB#8 0x00#8) (engine .vSimple .cIdle))
      (fun t => t.osr == Reg.of 0x5274AB00#32 && t.wcnt == Reg.of 0#16 && t.rcnt == Reg.of 1#16) = true := by decide

/-- V-C1, tick 1. -/
theorem test_null :
    after (exec (.null 0#24) (engine .vSimple .cIdle)) (fun t => t.phase == .cDirin && t.rcnt == Reg.of 1#16) = true := by decide

/-- V-C6, its refill. -/
theorem test_extStreamWord :
    after (exec (.extStreamWord 0xCC#8 0#8 0#8 0#8) (engine .vExt .cRefill))
      (fun t => t.osr == Reg.of 0xCC000000#32 && t.osrb == Reg.of 4#3 && t.phase == .cTxset) = true := by decide

/-- V-C5. -/
theorem test_extNull :
    after (exec (.extNull 0#24) (engine .vExt .cFetch0)) (fun t => t.phase == .cDirin && !t.ddOe) = true := by decide

/-- 40_link_engine.md R154: both count bits set. -/
theorem test_cTxset_count :
    after (exec .cTxset { engine .vSimple .cTxset with
        osr := Reg.of 0x80000000#32, txseg := Reg.of .segCnt, wcnt := Reg.of 1#16 })
      (fun t => t.wcnt == Reg.of 3#16 && t.osr == Reg.of 0#32 && t.ddOut) = true := by decide

/-- V-C6: `OSRB` reached 0 with `WCNT = 1`. -/
theorem test_cTxlo_last :
    after (exec .cTxlo { engine .vExt .cTxlo with
        bitcnt := Reg.of 1#4, txseg := Reg.of .segData, wcnt := Reg.of 2#16, osrb := Reg.of 1#3 })
      (fun t => t.wcnt == Reg.of 1#16 && t.osrb == Reg.of 0#3 && t.phase == .cRefill) = true := by decide

/-- 40_link_engine.md R164: the last bit sampled is bit 0. -/
theorem test_cRxlo :
    after (exec .cRxlo { engine .vSimple .cRxlo with
        pinsOut := 0b110#3, isr := Reg.of 0x52#8, bitcnt := Reg.of 1#4, dd := [.level true] })
      (fun t => t.isr == Reg.of 0xA5#8 && t.phase == .cPush && !t.dcOut) = true := by decide

/-- V-C1, tick 3. -/
theorem test_cSample_pulled_up :
    after (exec .cSample { engine .vSimple .cSample with dd := [.released] }) (fun t => t.nr == Reg.of true) = true := by decide

/-- 40_link_engine.md R165, its example. -/
theorem test_cPush :
    after (exec .cPush { engine .vSimple .cPush with
        nr := Reg.of true, isr := Reg.of 0xFF#8, rcnt := Reg.of 1#16 })
      (fun t => t.rxf == [0x800000FF#32] && t.phase == .cIdle) = true := by decide

/-- V-E3. -/
theorem test_respWord :
    after (exec (.respWord true 0xFF#8) held) (fun t => t.ws == [{ nr := true, data := 0xFF#8 }]) = true := by decide

/-- P2. -/
theorem test_tMovxSt :
    after (exec .tMovxSt { withTarget with target := { debugTarget with dptr := 0x70C7#16, acc := 0x03#8 } })
      (fun t => t.target.xdata.read 0x70C7 == some 0x03#8) = true := by decide

/-- 20_memory.md R69: the arm value of channel A. -/
theorem test_tMovxSt_arm :
    after (exec .tMovxSt { withTarget with target := { debugTarget with dptr := 0x70D6#16, acc := 0x01#8 } })
      (fun t => t.target.armedA && !t.target.armedB) = true := by decide

/-- P4: the third load. -/
theorem test_tMovxLd_banked :
    after (exec .tMovxLd { withTarget with
        target := { debugTarget with dptr := 0x8000#16, xdata := [(0x70C7, 1#8)], flash := [(0x8000, 0x80#8)] } })
      (fun t => t.target.acc == 0x80#8 && t.target.resp == byteBits 0x80#8) = true := by decide

/-- 42_access_layer.md R216. -/
theorem test_tIncDptr :
    after (exec .tIncDptr { withTarget with target := { debugTarget with dptr := 0x00FF#16 } })
      (fun t => t.target.dptr == 0x0100#16) = true := by decide

/-- 43_flash_program.md R238. -/
theorem test_chipErase :
    after (exec .chipErase { withTarget with target := { debugTarget with flash := [(0, 1#8)] } })
      (fun t => t.target.flash == [] && t.target.erased) = true := by decide

/-- 70_reset_and_hazards.md R344 (c): a location programmed a second time is known no more, nor after a third. -/
theorem test_program_three_times :
    (((debugTarget.programByte 4 1#8).programByte 4 2#8).programByte 4 3#8).flash = [] ∧
    (({ debugTarget with erased := true }.programByte 4 1#8).flash.read 4 = some 1#8) ∧
    ((({ debugTarget with erased := true }.programByte 4 1#8).programByte 4 2#8).programByte 4 3#8).flash = [] := by
  decide

/-- 70_reset_and_hazards.md R343 (c): an armed channel takes every byte that reaches the debug-data buffer. -/
theorem test_burstWrite_twice :
    after (execAll [.burstWrite [1#8, 2#8], .burstWrite [3#8]]
        { withTarget with target := { debugTarget with armedA := true, config := Config.default.configEnableDma } })
      (fun t => t.target.dbg == [1#8, 2#8, 3#8] && t.target.pending == [.chA]) = true := by decide

/-- 20_memory.md R81: channel A. -/
theorem test_dmaDescriptor_A :
    after (exec (.dmaDescriptor 0x6260#16 0x0000#16 2#16 0x1F#8 0x11#8)
        { withTarget with target := { debugTarget with dbg := [0xDE#8, 0xAD#8], armedA := true } })
      (fun t => t.target.xdata == [(0, 0xDE#8), (1, 0xAD#8)] && !t.target.armedA) = true := by decide

/-- 20_memory.md R72, R81: channel B, at the address of P3. -/
theorem test_dmaDescriptor_B :
    after (exec (.dmaDescriptor 0x0000#16 0x6273#16 2#16 0x12#8 0x42#8)
        { withTarget with
          target := { debugTarget with
            erased := true, armedB := true
            xdata := [(0, 0xDE#8), (1, 0xAD#8), (0x6271, 0x00#8), (0x6272, 0x60#8)] } })
      (fun t => t.target.flash == [(0x18000, 0xDE#8), (0x18001, 0xAD#8)] && !t.target.armedB) = true := by decide

/-- V-A2, tick 1, through the step function. -/
theorem test_attach_step :
    after (step (turnOf .sequencer (engine .vAttach .atAssert)))
      (fun t => !t.rstnOut && !t.dcOut && !t.ddOe && t.holdcnt == Reg.of 2 && t.phase == .atHold) = true := by decide

/-- The word of T.MOVX_ST runs as the first instruction (30_encoding.md R109). -/
theorem test_fetch_step :
    after (step (State.reset.withFetchWord 32 0x51F00000)) (fun t => t.target.xdata.length == 1) = true := by decide

/-- A request of the host is an instruction (30_encoding.md R120). -/
theorem test_request_step :
    after (step (turnOf .host { State.reset with req := [{ hop := 0x60#8, args := {} }] }))
      (fun t => t.owner == .held && t.req == []) = true := by decide

/-! ### Witnesses: the hypotheses of each obligation are met -/

/-- Blocks of four bytes, the smallest legal (95_test_vectors.md P3). -/
def smallCfg : Config := { Config.default with blockSize := 4, txfDepth := 1, rxfDepth := 1 }

/-- A timer whose next answer is given. -/
def answers (b : Bool) : Timer := { answers := [b] }

/-- A target about to receive the burst of P3: both channels armed, flash erased, the address registers written. -/
def programTarget : Target :=
  { debugTarget with
    config := 0x22#8, armedA := true, armedB := true, erased := true
    xdata := [(0x6271, 0x00#8), (0x6272, 0x60#8)] }

theorem test_hyp_DecodeEncode :
    Config.default.opcodesDistinct = true ∧ wellFormed Config.default (.burstWrite [0xAA#8]) = true ∧
    wellFormed Config.default (.simpleWord 0x3F#6 3#2 0#8 0#8 0#8) = true := by decide

theorem test_hyp_EncodeDecodeWords :
    wordByte 0x00FFFFFF#32 0 = Config.default.opNull ∧
    decode Config.default (.desc [1#8, 2#8, 3#8, 4#8, 5#8, 6#8, 7#8, 8#8]) =
      .ok (.dmaDescriptor 0x0102#16 0x0304#16 0x0506#16 7#8 8#8) := by decide

theorem test_hyp_FrameWords :
    (([1#8, 2#8, 3#8] : List Byte).length = (0x53#8 &&& 3#8 : Byte).toNat ∧ 1 = 1) ∧
    ([] : List Byte).length ≠ (0x51#8 &&& 3#8 : Byte).toNat ∧
    ((0x10#8 : Byte) ≠ Config.default.opNull ∧ 0x10#8 &&& 0xF8#8 ≠ Config.default.opBurstWrite &&& 0xF8#8) ∧
    (0x80#8 &&& 0xF8#8 = Config.default.opBurstWrite &&& 0xF8#8 ∧ 2 ≤ [1#8, 0xAA#8].length ∧
      [1#8, 0xAA#8].length - 1 ≤ Config.default.burstMax) ∧
    ((0#8 : Byte) = Config.default.opNull ∧ [1#8] ≠ ([] : List Byte)) ∧ 65535 < 65536 ∧
    (0x87#8 &&& 0xF8#8 = Config.default.opBurstWrite &&& 0xF8#8 ∧ [0#8].length - 1 = 0 ∧
      Config.default.burstMax < 2049 - 1) := by decide

/-- The frames at the two ends of the length of a burst, and beyond them (30_encoding.md R113). -/
theorem test_hyp_FrameWords_bounds :
    (Frame.words Config.default ⟨.ext, 0x80#8, [1#8, 0xAA#8], 1⟩).isSome = true ∧
    Frame.words Config.default ⟨.ext, 0x80#8, [0#8], 1⟩ = none ∧ Frame.words Config.default ⟨.ext, 0x80#8, [], 1⟩ = none ∧
    burstFits { Config.default with burstMax := 3 } 0x80#8 [3#8, 1#8, 2#8, 3#8] = true ∧
    burstFits { Config.default with burstMax := 3 } 0x80#8 [4#8, 1#8, 2#8, 3#8, 4#8] = false := by decide

theorem test_hyp_FlashAddressSplit : 262143 < 262144 ∧ 262143 % 4 ≠ 0 ∧ 262140 < 262144 := by decide

theorem test_hyp_BankTranslation : 262143 < 262144 ∧ Config.default.bankWindowBase = 0x8000#16 := by decide

theorem test_hyp_StepRunsDecoded_host :
    ((turnOf .host { held with req := [⟨0x30#8, {}⟩] }).mover = .host ∧ held.tasks = [] ∧
      decode Config.default (.hop 0x30#8 {}) = .ok (.idLookup 0#8)) ∧
    (turnOf .host { held with tasks := [.op .idRead] }).mover = .host ∧
    ((turnOf .host { held with tasks := [.await statusRead], rxf := [0xB2#32] }).mover = .host ∧
      held.ws.length < statusRead.rcount ∧ decode Config.default (.resp 0xB2#32) = .ok (.respWord false 0xB2#8)) := by
  decide

/-- The points of an operation: one that waits for nothing, a wait without a word, and a wait that has all its words. -/
theorem test_hyp_StepRunsDecoded_point :
    ((turnOf .host { held with tasks := [.retUnit] }).mover = .host ∧ (∀ o : SubOp, Task.retUnit ≠ .op o) ∧
      ∀ f : Frame, Task.retUnit ≠ .await f) ∧
    ((turnOf .host { held with tasks := [.await statusRead] }).mover = .host ∧
      (∀ o : SubOp, Task.await statusRead ≠ .op o) ∧ held.rxf = [] ∧
      statusRead.rcount ≤ { held with ws := [{ nr := false, data := 0#8 }] }.ws.length) :=
  ⟨⟨rfl, by simp, by simp⟩, rfl, by simp, rfl, by decide⟩

theorem test_hyp_StepRunsDecoded_sequencer :
    (turnOf .sequencer (engine .vSimple .cIdle)).mover = .sequencer ∧ (engine .vSimple .cIdle).life = .running ∧
    decode Config.default (.simple 0x30000000#32) = .ok (.simpleWord 0x0C#6 0#2 0#8 0#8 0#8) ∧
    (engine .vExt .cIdle).variant = .vExt ∧ decode Config.default (.extPrefix 2#32) = .ok (.extPrefix 0#16 2#16) ∧
    decode Config.default (.extStream0 0x68000000#32) = .ok (.extStreamWord 0x68#8 0#8 0#8 0#8) ∧
    decode Config.default (.extStream 0xCC000000#32) = .ok (.extStreamWord 0xCC#8 0#8 0#8 0#8) ∧
    (engine .vExt .cRefill).txf = [] ∧
    decode Config.default (.phase (engine .vExt .cRefill).variant (engine .vExt .cRefill).phase.code) = .ok .cRefill ∧
    (loaded .vExt).life ≠ .running := by decide

theorem test_hyp_StepRunsDecoded_target :
    (turnOf .target { State.reset with target := { debugTarget with inbox := [[0x10#8]] } }).mover = .target ∧
    decode Config.default (.command [0x10#8]) = .ok .chipErase ∧
    (turnOf .dma (State.reset.place (.desc [0#8, 1#8, 2#8, 3#8, 4#8, 5#8, 6#8, 7#8]))).mover = .dma ∧
    (State.reset.place (.desc [0#8, 1#8, 2#8, 3#8, 4#8, 5#8, 6#8, 7#8])).target.pending = [.chA] ∧
    (State.reset.place (.desc [0#8, 1#8, 2#8, 3#8, 4#8, 5#8, 6#8, 7#8])).target.descriptor Config.default .chA =
      some [0#8, 1#8, 2#8, 3#8, 4#8, 5#8, 6#8, 7#8] := by decide

/-- The descriptor of channel A, and of channel B at the last eight addresses of XDATA. -/
theorem test_hyp_StepRunsDecoded_descriptor :
    (let s : State := turnOf .dma (State.reset.place (.desc [0#8, 1#8, 2#8, 3#8, 4#8, 5#8, 6#8, 7#8]));
      s.mover = .dma ∧ s.target.xdata.read s.cfg.addrDma0cfgh.toNat = some 0x02#8 ∧
      s.target.xdata.read s.cfg.addrDma0cfgl.toNat = some 0x00#8 ∧
      ∀ k : Nat, k < 8 → s.target.xdata.read ((0x02#8 : Byte).toNat * 256 + (0x00#8 : Byte).toNat + k) =
        [0#8, 1#8, 2#8, 3#8, 4#8, 5#8, 6#8, 7#8][k]?) ∧
    (let t : Target := { debugTarget with
        pending := [.chB]
        xdata := [(0x70D2, 0xF8#8), (0x70D3, 0xFF#8)] ++
          (List.range 8).map fun k => (0xFFF8 + k, BitVec.ofNat 8 k) };
      t.xdata.read Config.default.addrDma1cfgh.toNat = some 0xFF#8 ∧
      t.xdata.read Config.default.addrDma1cfgl.toNat = some 0xF8#8 ∧
      ∀ k : Nat, k < 8 → t.xdata.read ((0xFF#8 : Byte).toNat * 256 + (0xF8#8 : Byte).toNat + k) =
        [0#8, 1#8, 2#8, 3#8, 4#8, 5#8, 6#8, 7#8][k]?) := by decide

theorem test_hyp_StepRejects :
    ((turnOf .host { held with req := [⟨0x08#8, {}⟩] }).mover = .host ∧
      decode Config.default (.hop 0x08#8 {}) = .error .unassignedHop) ∧
    ((turnOf .sequencer (engine .vSimple .cRefill)).mover = .sequencer ∧
      decode Config.default (.phase .vSimple Phase.cRefill.code) = .error .phaseOfAnotherVariant) ∧
    ((turnOf .target { withTarget with target := { debugTarget with inbox := [[1#8]] } }).mover = .target ∧
      decode Config.default (.command [1#8]) = .error .unassignedOpcode) ∧
    (let s : State := turnOf .dma { withTarget with target := { debugTarget with pending := [.chB] } };
      s.mover = .dma ∧ s.target.pending = .chB :: [] ∧ s.target.descriptor s.cfg .chB = none) ∧
    (((turnOf .host held).mover = .host ∧ held.tasks = [] ∧ held.req = []) ∧
      ((turnOf .target held).mover = .target ∧ held.target.inbox = []) ∧
      ((turnOf .dma held).mover = .dma ∧ held.target.pending = [])) := by decide

theorem test_hyp_FetchedWordIsPhaseRule :
    (engine .vExt .cFetch0).life = .running ∧
    decode Config.default (.phase (engine .vExt .cFetch0).variant (engine .vExt .cFetch0).phase.code) = .ok .cFetch0 := by
  decide

theorem test_hyp_LoadStartDeinit :
    (held.owner = .held ∧ held.life = .unloaded ∧ Variant.vExt ≠ .vNone) ∧
    ((loaded .vAttach).owner = .held ∧ (loaded .vAttach).life = .loaded ∧ (loaded .vAttach).life ≠ .unloaded) ∧
    held.life ≠ .loaded ∧ State.reset.owner = .free := by decide

theorem test_hyp_AbortAndStop :
    (engine .vAttach .atHi).owner = .held ∧ (engine .vAttach .atHi).life = .running ∧ held.life ≠ .running := by decide

theorem test_hyp_SwitchExpands :
    (engine .vExt .cIdle).owner = .held ∧ (engine .vExt .cIdle).life = .running ∧ Variant.vExt ≠ .vNone ∧
    (engine .vExt .cIdle).variant = .vExt ∧ (engine .vSimple .cIdle).variant ≠ .vExt ∧
    (loaded .vSimple).life = .loaded ∧ held.life = .unloaded := by decide

theorem test_hyp_AttachBegins :
    held.owner = .held ∧ held.life = .unloaded ∧ (loaded .vExt).life = .loaded ∧
    (engine .vExt .cIdle).life = .running := by decide

theorem test_hyp_GeneralRefusals :
    (isOperation .idRead = true ∧ State.reset.owner = .free ∧ Instr.idRead ≠ .toSessionStart) ∧
    (isOperation (.frRead 0 1) = true ∧ held.chipState ≠ .identified ∧ isTransfer (.frRead 0 1) = true) ∧
    (isTransfer .fpClockInit = true ∧ isTransfer (.toReadAll []) = true ∧ isTransfer .toSessionStart = false) ∧
    isOperation (.leSwitch .vNone) = true := by decide

/-- A state in which every working register is written. -/
def written : State :=
  { engine .vSimple .cTxlo with
    osr := Reg.of 1#32, osrb := Reg.of 1#3, opc := Reg.of 1#8, txseg := Reg.of .segCnt, bitcnt := Reg.of 1#4
    wcnt := Reg.of 1#16, rcnt := Reg.of 1#16, isr := Reg.of 1#8, nr := Reg.of true, holdcnt := Reg.of 1
    falls := Reg.of 1#2 }

theorem test_hyp_WhatIsRead :
    (written.osr.written ∧ written.osrb.written ∧ written.txseg.written ∧ written.bitcnt.written ∧
      written.wcnt.written ∧ written.rcnt.written ∧ written.isr.written ∧ written.nr.written ∧
      written.holdcnt.written ∧ written.falls.written) ∧
    { held with pinsOe := 0b111#3 }.ddOe = true ∧ held.ddOe = false ∧
    { held with dd := [.level false] }.dd = .level false :: [] ∧ { held with dd := [.released] }.dd = .released :: [] ∧
    (engine .vSimple .cIdle).variant = .vSimple ∧ (engine .vExt .cIdle).variant = .vExt ∧
    (engine .vAttach .atHi).variant = .vAttach := by decide

theorem test_hyp_AttachRun :
    ∃ s : State, s.life = .running ∧ s.variant = .vAttach ∧ s.phase = .atAssert ∧ s.pinsOe = 0b110#3 ∧
      s.dcOut = false ∧ s.rstnOut = true ∧ s.cfg.nRstHold = 2 ∧ 1 ≤ 2 ∧
      s.turns = List.replicate (2 * 2 + 10) .sequencer ++ [] :=
  ⟨{ engine .vAttach .atAssert with turns := List.replicate 14 .sequencer }, by decide⟩

theorem test_hyp_FetchPhases :
    held.txf = [] ∧ { held with txf := [0x30000000#32] }.txf = 0x30000000#32 :: [] ∧
    (0x30000000#32 : Word).extractLsb' 24 8 ≠ held.cfg.opNull ∧
    (0x00000000#32 : Word).extractLsb' 24 8 = held.cfg.opNull := by decide

theorem test_hyp_WordsTaken :
    (0x0C#6 ++ 0#2 : Byte) ≠ held.cfg.opNull ∧ (0#6 ++ 0#2 : Byte) = held.cfg.opNull ∧
    (engine .vExt .cRefill).phase = .cRefill ∧ (engine .vExt .cFetch0).phase ≠ .cRefill ∧
    (0x80#8 : Byte) ≠ held.cfg.opNull := by decide

theorem test_hyp_TransmitLow :
    ({ written with bitcnt := Reg.of 8#4 }.rdBitcnt - 1#4 ≠ 0#4) ∧
    (written.rdBitcnt = 1#4 ∧ { written with txseg := Reg.of .segOp }.rdTxseg = .segOp ∧ written.variant = .vSimple) ∧
    (({ written with txseg := Reg.of .segOp, variant := .vExt }.rdTxseg = .segOp ∧
      { written with variant := .vExt }.variant ≠ .vSimple) ∧ written.rdTxseg = .segCnt) ∧
    ({ written with wcnt := Reg.of 0#16 }.rdWcnt = 0#16 ∧ written.rdWcnt ≠ 0#16) ∧
    ({ written with txseg := Reg.of .segData }.rdTxseg = .segData ∧ written.rdWcnt - 1#16 = 0#16 ∧
      { written with wcnt := Reg.of 2#16 }.rdWcnt - 1#16 ≠ 0#16) := by decide

theorem test_hyp_ReceivePhases :
    (smallCfg.rxfDepth ≤ ({ held with cfg := smallCfg, rxf := [0#32] } : State).rxf.length) ∧
    held.rxf.length < held.cfg.rxfDepth := by decide

theorem test_hyp_SimpleFrameSent :
    ∃ s : State, s.life = .running ∧ s.variant = .vSimple ∧ s.phase = .cIdle ∧ s.pinsOe = 0b110#3 ∧ s.dcOut = false ∧
      s.rstnOut = true ∧ s.target.bits = [] ∧ s.txf = 0x53906270#32 :: [] ∧
      (0x53906270#32 : Word).extractLsb' 24 8 ≠ s.cfg.opNull ∧ ((0x53906270#32 : Word).extractLsb' 24 2).toNat = 3 ∧
      s.turns = List.replicate (35 + 32 * 3) .sequencer ++ [] :=
  ⟨{ engine .vSimple .cIdle with txf := [0x53906270#32], turns := List.replicate 131 .sequencer }, by decide⟩

theorem test_hyp_ExtendedFrameSent :
    ∃ s : State, s.life = .running ∧ s.variant = .vExt ∧ s.phase = .cIdle ∧ s.pinsOe = 0b110#3 ∧ s.dcOut = false ∧
      s.rstnOut = true ∧ s.target.bits = [] ∧ (0x68#8 : Byte) ≠ s.cfg.opNull ∧ ([] : List Byte).length ≤ 65535 ∧
      2 ≤ 65535 ∧
      Frame.words s.cfg { kind := .ext, op := 0x68#8, payload := [], rcount := 2 } =
        some [0x00000002#32, 0x68000000#32] ∧
      s.txf = [0x00000002#32, 0x68000000#32] ++ [] ∧ 36 = 4 + 32 * (1 + 0) + ((1 + 0 + 3) / 4 - 1) ∧
      s.turns = List.replicate 36 .sequencer ++ [] :=
  ⟨{ engine .vExt .cIdle with txf := [0x00000002#32, 0x68000000#32], turns := List.replicate 36 .sequencer }, by decide⟩

/-- A burst of three bytes and no response: one refill, and the program rests afterwards. -/
theorem test_hyp_ExtendedFrameSent_refill :
    ∃ s : State, s.life = .running ∧ s.variant = .vExt ∧ s.phase = .cIdle ∧ s.pinsOe = 0b110#3 ∧ s.dcOut = false ∧
      s.rstnOut = true ∧ s.target.bits = [] ∧ (0x80#8 : Byte) ≠ s.cfg.opNull ∧
      [3#8, 0xAA#8, 0xBB#8, 0xCC#8].length ≤ 65535 ∧ 0 ≤ 65535 ∧
      Frame.words s.cfg { kind := .ext, op := 0x80#8, payload := [3#8, 0xAA#8, 0xBB#8, 0xCC#8], rcount := 0 } =
        some [0x00040000#32, 0x8003AABB#32, 0xCC000000#32] ∧
      s.txf = [0x00040000#32, 0x8003AABB#32, 0xCC000000#32] ++ [0x68000000#32] ∧
      165 = 4 + 32 * (1 + 4) + ((1 + 4 + 3) / 4 - 1) ∧ s.turns = List.replicate 165 .sequencer ++ [.host] :=
  ⟨{ engine .vExt .cIdle with
      txf := [0x00040000#32, 0x8003AABB#32, 0xCC000000#32, 0x68000000#32]
      turns := List.replicate 165 .sequencer ++ [.host] }, rfl, rfl, rfl, rfl, rfl, rfl, rfl, by decide, by decide, by decide,
    by decide, rfl, rfl, rfl⟩

theorem test_hyp_ResponseByteReceived :
    ∃ s : State, s.life = .running ∧ s.variant = .vSimple ∧ s.phase = .cSample ∧ s.pinsOe = 0b110#3 ∧
      s.dcOut = false ∧ s.rstnOut = true ∧ s.rcnt = Reg.of 1#16 ∧ s.rxf.length < s.cfg.rxfDepth ∧
      s.dd = [.level false, .level true, .level false, .level true, .level true, .level false, .level false,
        .level true, .level false] ++ [] ∧
      s.turns = List.replicate 26 .sequencer ++ [] :=
  ⟨{ engine .vSimple .cSample with
      rcnt := Reg.of 1#16, turns := List.replicate 26 .sequencer
      dd := [.level false, .level true, .level false, .level true, .level true, .level false, .level false,
        .level true, .level false] }, by decide⟩

theorem test_hyp_ExchangeBegins :
    held.owner = .held ∧ statusRead.words held.cfg = some [0x30000000#32] ∧
    Frame.words held.cfg { kind := .simple, op := 0x51#8, payload := [], rcount := 1 } = none := by decide

theorem test_hyp_SendStep :
    held.txf.length < held.cfg.txfDepth ∧
    (let s : State := { engine .vSimple .cIdle with cfg := smallCfg, txf := [0#32], tmo := answers true };
      s.cfg.txfDepth ≤ s.txf.length ∧ s.expired .tmo = true ∧ s.owner = .held ∧ s.life = .running) ∧
    { held with tmo := answers false }.expired .tmo = false := by decide

theorem test_hyp_ReceiveStep :
    (noResponse.rcount = 0 ∧ (engine .vExt .cIdle).leBusy = false ∧ (engine .vExt .cSample).leBusy = true) ∧
    (let s : State := { held with ws := [⟨false, 0xB2#8⟩] };
      0 < statusRead.rcount ∧ s.ws = ⟨false, 0xB2#8⟩ :: [] ∧ s.ws.length = statusRead.rcount) ∧
    (let s : State := { held with ws := [⟨true, 0xFF#8⟩], tmo := answers false };
      s.ws = ⟨true, 0xFF#8⟩ :: [] ∧ s.ws.length = statusRead.rcount ∧ s.expired .tmo = false) ∧
    held.ws.length < statusRead.rcount ∧
    (let s : State := { engine .vSimple .cIdle with tmo := answers true };
      s.expired .tmo = true ∧ s.owner = .held ∧ s.life = .running ∧ s.ws.length < statusRead.rcount) ∧
    (let s : State := { loaded .vSimple with tmo := answers true };
      s.expired .tmo = true ∧ s.life ≠ .running ∧ s.ws.length < statusRead.rcount) := by decide

theorem test_hyp_TimerLaw :
    { held with tmoErase := answers true }.expired .tmoErase = true ∧
    ({ held with tmoErase := { expired := true, answers := [false] } }.timer .tmoErase).expired = true ∧
    TimerId.tmo ≠ .tmoLink2 ∧
    (let s : State := turnOf .host { held with tasks := [.arm .tmoErase], tmoErase := { answers true with expired := true } };
      after (step s) (fun t => !(t.timer .tmoErase).expired) = true ∧ (s.timer .tmoErase).expired = true) := by decide

theorem test_hyp_AccessBegins :
    held.owner = .held ∧ (0xFFFF#16 : Half).toNat + [1#8].length ≤ 0x10000 ∧
    0x10000 < (0xFFFF#16 : Half).toNat + [1#8, 2#8].length := by decide

theorem test_hyp_BankedRead :
    session.owner = .held ∧ session.chipState = .identified ∧ 262143 + 1 ≤ 262144 ∧ 262144 < 262143 + 2 ∧
    { held with result := .bytes [1#8] }.result = .bytes (1#8 :: []) := by decide

theorem test_hyp_ChipLookup : held.owner = .held := rfl

theorem test_hyp_IdentityRead :
    held.owner = .held ∧ { held with result := .bytes [0xA5#8, 0x24#8] }.result = .bytes [0xA5#8, 0x24#8] ∧
    { held with result := .ident 0xA5#8 0x24#8 }.result = .ident 0xA5#8 0x24#8 ∧
    chipLookup 0xA5#8 = some .cc2530 ∧ chipLookup 0x42#8 = none := by decide

theorem test_hyp_PipelineBegins :
    session.owner = .held ∧ session.chipState = .identified ∧ session.fpState = .idle ∧ session.fpState ≠ .failed ∧
    session.cfg.clockInit = false ∧
    (let s : State := { session with fpState := .configDma };
      s.fpState = .configDma ∧ 1 ≤ 4 ∧ 2044 ≤ s.cfg.burstMax ∧ 2044 ≤ 65534 ∧ 2044 % 4 = 0 ∧
        [1#8, 2#8, 3#8, 4#8].length % 4 = 0 ∧ 1 ≤ [1#8, 2#8, 3#8, 4#8].length ∧
        [1#8, 2#8, 3#8, 4#8].length ≤ s.cfg.burstMax ∧ 0x3FFFC % 4 = 0 ∧
        0x3FFFC + [1#8, 2#8, 3#8, 4#8].length ≤ 262144) ∧
    (let s : State := { session with fpState := .burst, fpLen := 4#16 };
      s.fpState = .burst ∧ [1#8, 2#8, 3#8, 4#8].length = s.fpLen.toNat ∧ 0x3FFFC % 4 = 0 ∧
        0x3FFFC + [1#8, 2#8, 3#8, 4#8].length ≤ 262144) ∧
    { session with fpState := .programming }.fpState = .programming ∧
    (let s : State := { session with cfg := { Config.default with clockInit := true } };
      s.cfg.clockInit = true ∧ s.fpState ≠ .failed) := by decide

theorem test_hyp_PipelineRefusals :
    { session with fpState := .failed }.fpState = .failed ∧ { session with fpState := .failed }.fpState ≠ .idle ∧
    session.fpState ≠ .configDma ∧ session.fpState ≠ .burst ∧ session.fpState ≠ .programming ∧
    (session.cfg.burstMax < 2048 ∧ 65534 < 65536 ∧ 2047 % 4 ≠ 0) ∧
    (262144 < 262144 + [1#8].length ∧ [1#8].length ≠ held.fpLen.toNat ∧ 3 % 4 ≠ 0) ∧
    (([] : List Byte).length = 0 ∧ [1#8, 2#8, 3#8].length % 4 ≠ 0 ∧ 262144 < 0x3FFFC + [1#8, 2#8, 3#8, 4#8, 5#8].length) ∧
    { session with err := 1#3 }.err ≠ 0#3 ∧ { session with toMode := .read }.toMode ≠ .none ∧
    ({ session with fpState := .burst }.fpState ≠ .idle ∧ { session with fpState := .burst }.fpState ≠ .done) := by decide

theorem test_hyp_PipelineEnds :
    { held with result := .bytes [0x00#8] }.result = .bytes (0x00#8 :: []) ∧
    (0x00#8 : Byte) &&& Config.default.statusEraseBusy = 0#8 ∧ (0x80#8 : Byte) &&& Config.default.statusEraseBusy ≠ 0#8 ∧
    (0x04#8 : Byte) &&& Config.default.fctlBusy = 0#8 ∧ (0x84#8 : Byte) &&& Config.default.fctlBusy ≠ 0#8 ∧
    (0x80#8 : Byte) = Config.default.clkStaValue ∧ (0x00#8 : Byte) ≠ Config.default.clkStaValue ∧
    { held with tmoErase := answers true }.expired .tmoErase = true ∧
    { held with tmoErase := answers false }.expired .tmoErase = false ∧
    { held with tmoProg := answers true }.expired .tmoProg = true ∧
    { held with tmoProg := answers false }.expired .tmoProg = false ∧
    { held with tmoLink2 := answers true }.expired .tmoLink2 = true ∧
    { held with tmoLink2 := answers false }.expired .tmoLink2 = false := by decide

theorem test_hyp_SessionStart :
    State.reset.owner = .free ∧ configLegal State.reset.cfg = true ∧ configLegal smallCfg = true ∧ held.owner = .held ∧
    configLegal { Config.default with blockSize := 6 } = false ∧
    configLegal { Config.default with addrDescA := 0x01FF#16 } = false ∧
    configLegal { Config.default with addrDescB := Config.default.addrDescA + 7#16 } = false ∧
    configLegal { Config.default with addrBuf := Config.default.addrFctl } = false := by decide

theorem test_hyp_WritePass :
    (session.owner = .held ∧ session.chipState = .identified ∧ session.err = 0#3 ∧ session.toMode = .none ∧
      session.fpState = .idle) ∧
    (let s : State := { session with toNblk := 512#19 };
      s.toBlk.toNat < s.toNblk.toNat ∧ s.eoi = false ∧ 0 < [1#8].length ∧ [1#8].length ≤ s.cfg.blockSize) ∧
    (session.toNblk.toNat ≤ session.toBlk.toNat) := by decide

theorem test_hyp_ReadPass :
    (session.owner = .held ∧ session.chipState = .identified ∧ session.err = 0#3 ∧ session.toMode = .none ∧
      session.fpState = .idle) ∧
    { session with fpState := .done }.fpState = .done ∧
    (let s : State := { session with toNblk := 512#19 }; s.toBlk.toNat < s.toNblk.toNat) ∧
    session.toNblk.toNat ≤ session.toBlk.toNat ∧ { session with result := .bytes [1#8] }.result = .bytes [1#8] := by
  decide

theorem test_hyp_SessionEndAndRestart :
    held.owner = .held ∧ held.life = .unloaded ∧ (loaded .vExt).life = .loaded ∧
    (engine .vSimple .cIdle).life = .running := by decide

theorem test_hyp_EmulatedInstructions :
    withTarget.target.inDebug = true ∧ withTarget.target.dptr ≠ 0xFFFF#16 ∧
    withTarget.target.dptr ≠ withTarget.cfg.addrDbgdata ∧
    (programTarget.armedA = true ∧ programTarget.config = withTarget.cfg.configEnableDma) ∧
    (let t : Target := { debugTarget with dptr := 0xFFFF#16, xdata := [(0x70C7, 7#8)], flash := [(0x3FFFF, 9#8)] };
      Config.default.bankWindowBase.toNat ≤ t.dptr.toNat ∧ t.dptr.toNat < Config.default.bankWindowBase.toNat + 32768 ∧
      t.xdata.read Config.default.addrMemctr.toNat = some 7#8 ∧
      t.flash.read ((7#8 : Byte).toNat * 32768 + (t.dptr.toNat - Config.default.bankWindowBase.toNat)) = some 9#8) ∧
    (let t : Target := { debugTarget with dptr := 0x7FFF#16, xdata := [(0x7FFF, 7#8)] };
      t.dptr.toNat < Config.default.bankWindowBase.toNat ∧ t.dptr ∉ registerAddresses Config.default ∧
      t.xdata.read t.dptr.toNat = some 7#8) ∧
    { Config.default with bankWindowBase := 0#16 }.bankWindowBase.toNat + 32768 ≤ (0xFFFF#16 : Half).toNat := by decide

theorem test_hyp_StoreFrame :
    withTarget.target.inDebug = true ∧
    (let t : Target := { programTarget with dptr := 0x70D6#16, acc := 0x01#8 };
      t.dptr = withTarget.cfg.addrDmaarm ∧ t.acc = withTarget.cfg.armA ∧
        (0x00#8 : Byte) ≠ withTarget.cfg.armA ∧ (0x00#8 : Byte) ≠ withTarget.cfg.armB) ∧
    (let t : Target := { programTarget with dptr := 0x6270#16, acc := 0x06#8 };
      t.dptr ≠ withTarget.cfg.addrDmaarm ∧ t.dptr = withTarget.cfg.addrFctl ∧ t.acc = withTarget.cfg.fctlWriteValue ∧
        t.armedB = true ∧ t.config = withTarget.cfg.configEnableDma ∧ { t with armedB := false }.armedB = false ∧
        { t with config := 0#8 }.config ≠ withTarget.cfg.configEnableDma ∧ (0x07#8 : Byte) ≠ withTarget.cfg.fctlWriteValue) ∧
    (let t : Target := { programTarget with dptr := 0x6273#16 };
      t.dptr ≠ withTarget.cfg.addrDmaarm ∧ t.dptr ≠ withTarget.cfg.addrFctl ∧ t.dptr = withTarget.cfg.addrFwdata) ∧
    (let t : Target := { programTarget with dptr := 0x6260#16 };
      t.dptr ≠ withTarget.cfg.addrDmaarm ∧ t.dptr ≠ withTarget.cfg.addrFctl ∧ t.dptr ≠ withTarget.cfg.addrFwdata ∧
        t.dptr = withTarget.cfg.addrDbgdata ∧ t.armedA = true ∧ t.config = withTarget.cfg.configEnableDma ∧
        { t with armedA := false }.armedA = false) ∧
    (withTarget.target.dptr ≠ withTarget.cfg.addrDmaarm ∧ withTarget.target.dptr ≠ withTarget.cfg.addrFctl ∧
      withTarget.target.dptr ≠ withTarget.cfg.addrFwdata ∧ withTarget.target.dptr ≠ withTarget.cfg.addrDbgdata) := by
  decide

theorem test_hyp_OtherCommands :
    withTarget.target.inDebug = true ∧
    (programTarget.armedA = true ∧ programTarget.config = Config.default.configEnableDma) ∧
    withTarget.target.armedA = false ∧
    ((0x00#8 : Byte) ≠ Config.default.iMovxSt ∧ (0x00#8 : Byte) ≠ Config.default.iMovxLd ∧
      (0x00#8 : Byte) ≠ Config.default.iIncDptr ∧ (0x00#8 : Byte) ≠ Config.default.iMovA ∧
      (0x00#8 : Byte) ≠ Config.default.iMovDptr) ∧
    (isCommand .chipErase = true ∧ State.reset.target.inDebug = false) := by decide

theorem test_hyp_DmaTransfers :
    withTarget.target.inDebug = true ∧
    ((0x6260#16 : Half) = withTarget.cfg.addrDbgdata ∧ { debugTarget with dbg := [1#8] }.dbg.length = (1#16 : Half).toNat ∧
      (0xFFFF#16 : Half).toNat + (1#16 : Half).toNat ≤ 65536) ∧
    (let t : Target := { programTarget with xdata := [(0, 0xDE#8), (0x6271, 0xFF#8), (0x6272, 0xFF#8)] };
      (0x0000#16 : Half) ≠ withTarget.cfg.addrDbgdata ∧ (0x6273#16 : Half) = withTarget.cfg.addrFwdata ∧
      t.xdata.read withTarget.cfg.addrFaddrh.toNat = some 0xFF#8 ∧
      t.xdata.read withTarget.cfg.addrFaddrl.toNat = some 0xFF#8 ∧
      262140 = 4 * ((0xFF#8 : Byte).toNat * 256 + (0xFF#8 : Byte).toNat) ∧ t.xdata.readBytes 0 1 = some [0xDE#8] ∧ 262140 + 1 ≤ 262144 ∧
      t.erased = true ∧ t.flash = [] ∧ 262144 < 262140 + (5#16 : Half).toNat) ∧
    withTarget.target.xdata.read withTarget.cfg.addrFaddrh.toNat = none ∧
    { debugTarget with xdata := [(0x6272, 0#8)] }.xdata.read withTarget.cfg.addrFaddrl.toNat = none := by decide

theorem test_hyp_BlockStored :
    withTarget.target.inDebug = true ∧ (0xFFFF#16 : Half).toNat + [1#8].length ≤ 0x10000 ∧
    withTarget.cfg.addrDmaarm.toNat < (0xFFFF#16 : Half).toNat ∧ withTarget.cfg.addrFctl.toNat < (0xFFFF#16 : Half).toNat ∧
    withTarget.cfg.addrDbgdata.toNat < (0xFFFF#16 : Half).toNat ∧ withTarget.cfg.addrFwdata.toNat < (0xFFFF#16 : Half).toNat ∧
    (0#16 : Half).toNat + [1#8, 2#8].length ≤ withTarget.cfg.addrFwdata.toNat ∧
    (0#16 : Half).toNat + [1#8, 2#8].length ≤ withTarget.cfg.addrDbgdata.toNat ∧
    (0#16 : Half).toNat + [1#8, 2#8].length ≤ withTarget.cfg.addrDmaarm.toNat ∧
    (0#16 : Half).toNat + [1#8, 2#8].length ≤ withTarget.cfg.addrFctl.toNat := by decide

theorem test_hyp_BurstProgramsFlash :
    ∃ s : State, s.target.inDebug = true ∧ s.target.armedA = true ∧ s.target.config = s.cfg.configEnableDma ∧
      s.target.dbg = [] ∧ configLegal s.cfg = true ∧ [0xDE#8, 0xAD#8, 0xBE#8, 0xEF#8].length = s.cfg.blockSize ∧
      s.cfg.addrBuf.toNat + 4 ≤ 65536 ∧ s.cfg.addrBuf ≠ s.cfg.addrDbgdata ∧
      s.target.xdata.read s.cfg.addrFaddrh.toNat = some 0x60#8 ∧ s.target.xdata.read s.cfg.addrFaddrl.toNat = some 0#8 ∧
      0x18000 = 4 * ((0x60#8 : Byte).toNat * 256 + (0#8 : Byte).toNat) ∧ 0x18000 + 4 ≤ 262144 ∧ s.target.erased = true ∧
      s.target.flash = [] :=
  ⟨{ State.reset with cfg := smallCfg, target := programTarget }, by decide⟩

theorem test_hyp_StepKeepsParameters :
    parametersLegal Config.default = true ∧ parametersLegal smallCfg = true ∧
    parametersLegal { Config.default with nRstHold := 0 } = false ∧
    parametersLegal { Config.default with tTick := 10 * Config.default.tTargetMin - 1 } = false ∧
    parametersLegal { Config.default with opNull := 0x01#8 } = false := by decide

theorem test_hyp_StepKeeps :
    (∃ t : State, step (turnOf .host State.reset) = .next t) ∧ (turnOf .host State.reset).linkLegal = true ∧
    (turnOf .host State.reset).memLegal = true ∧ (turnOf .host State.reset).fifosLegal = true ∧
    (turnOf .host State.reset).errLegal = true ∧ (turnOf .host State.reset).offLegal = true ∧
    (turnOf .host State.reset).sessionLegal = true :=
  ⟨⟨_, rfl⟩, by decide⟩

theorem test_hyp_SequencerNeverStuck :
    (turnOf .sequencer (engine .vExt .cIdle)).linkLegal = true ∧
    (turnOf .sequencer (engine .vExt .cIdle)).mover = .sequencer ∧
    (turnOf .sequencer { engine .vAttach .atHi with pinsOut := 0#3, falls := Reg.of 0#2 }).linkLegal = true := by decide

/-- A state that satisfies the invariant, about to set a data bit. -/
def sending : State :=
  { written with
    phase := .cTxset, txseg := Reg.of .segOp, wcnt := Reg.of 0#16, pinsOe := 0b111#3, turns := [.sequencer] }

theorem test_hyp_DirectionDiscipline :
    sending.linkLegal = true ∧ sending.mover = .sequencer ∧ sending.variant ≠ .vAttach ∧
    (∃ t : State, step sending = .next t) ∧
    after (step { sending with osr := Reg.of 0x80000000#32 }) (fun t => t.ddOut != sending.ddOut) = true ∧
    after (step { sending with phase := .cDirout, pinsOe := 0b110#3 }) (fun t => t.ddOe) = true ∧
    after (step { sending with phase := .cTxhi }) (fun t => t.dcOut) = true :=
  ⟨by decide, rfl, by decide, ⟨_, rfl⟩, by decide, by decide, by decide⟩

theorem test_hyp_AgentsTouchTheirOwn :
    (∃ t : State, step (turnOf .target withTarget) = .next t) ∧ (turnOf .target withTarget).mover = .target ∧
    (∃ t : State, step (turnOf .sequencer withTarget) = .next t) ∧ (turnOf .sequencer withTarget).mover = .sequencer ∧
    (∃ t : State, step (turnOf .dma { withTarget with target := { debugTarget with pending := [.chB] } }) = .next t) ∧
    (turnOf .dma withTarget).mover = .dma :=
  ⟨⟨_, rfl⟩, rfl, ⟨_, rfl⟩, rfl, ⟨_, rfl⟩, rfl⟩

theorem test_hyp_UpperOperationsLeaveLink :
    isOperation .fpErase = true ∧ Instr.fpErase ≠ .toSessionEnd ∧ Instr.fpErase ≠ .toRestart ∧
    (match encode Config.default .fpErase with | .hop c _ => c.toNat | _ => 0) ≥ 0x20 ∧
    ∃ t : State, exec .fpErase session = .next t :=
  ⟨by decide, by decide, by decide, by decide, ⟨_, rfl⟩⟩

end Sys2Proof.Tests
end

section
/-! PROOFS. What each agent's turn takes up: the equations of a step, and what it runs or rejects (O8, O9). -/

namespace Sys2Proof.Machine

/-! ### What a step is -/

theorem step_host {s : State} (hm : s.mover = .host) : step s = run s.begin.hostMove := by
  simp only [step, State.move, hm]

theorem step_sequencer {s : State} (hm : s.mover = .sequencer) : step s = run s.begin.seqMove := by
  simp only [step, State.move, hm]

theorem step_target {s : State} (hm : s.mover = .target) : step s = run s.begin.targetMove := by
  simp only [step, State.move, hm]

theorem step_dma {s : State} (hm : s.mover = .dma) : step s = run s.begin.dmaMove := by
  simp only [step, State.move, hm]

theorem run_code_ok {c : Code} {s : State} {i : Instr} (h : decode s.cfg c = .ok i) : run (.code c s) = exec i s := by
  simp only [run, h]

theorem run_code_error {c : Code} {s : State} {e : Reject} (h : decode s.cfg c = .error e) :
    run (.code c s) = rejected c s := by
  simp only [run, h]

/-! ### The moves -/

theorem hostMove_request {s : State} {r : Request} {rs : List Request} (ht : s.tasks = []) (hr : s.req = r :: rs) :
    s.hostMove = .code (.hop r.hop r.args) { s with req := rs } := by
  simp only [State.hostMove, ht, hr]

theorem hostMove_idle {s : State} (ht : s.tasks = []) (hr : s.req = []) : s.hostMove = .idle s := by
  simp only [State.hostMove, ht, hr]

theorem hostMove_call {s : State} {o : SubOp} {rest : List Task} (ht : s.tasks = .op o :: rest) :
    s.hostMove = .call o.instr { s with tasks := rest } := by
  simp only [State.hostMove, ht]

theorem hostMove_response {s : State} {f : Frame} {rest : List Task} {w : Word} {ws : List Word}
    (ht : s.tasks = .await f :: rest) (hl : s.ws.length < f.rcount) (hr : s.rxf = w :: ws) :
    s.hostMove = .code (.resp w) { s with rxf := ws } := by
  simp only [State.hostMove, ht, hl, hr, if_true]

theorem hostMove_point {s : State} {t : Task} {rest : List Task} (ht : s.tasks = t :: rest)
    (ho : ∀ o : SubOp, t ≠ .op o)
    (hf : ∀ f : Frame, t = .await f → f.rcount ≤ s.ws.length ∨ s.rxf = []) : s.hostMove = .point t rest s := by
  unfold State.hostMove
  rw [ht]
  cases t with
  | op o => exact absurd rfl (ho o)
  | await f =>
    obtain hl | hr := hf f rfl
    · simp only [Nat.not_lt.2 hl, if_false]
    · simp only [hr]; split <;> rfl
  | _ => rfl

/-- A word of TXF is taken in the format of the phase and the variant (30_encoding.md R114). -/
theorem seqMove_word {s : State} {c : Code} {w : Word} {ws : List Word} (hl : s.life = .running)
    (ht : s.txf = w :: ws)
    (hc : (s.phase = .cIdle ∧ s.variant = .vSimple ∧ c = .simple w) ∨
      (s.phase = .cIdle ∧ s.variant = .vExt ∧ c = .extPrefix w) ∨
      (s.phase = .cFetch0 ∧ s.variant = .vExt ∧ c = .extStream0 w) ∨
      (s.phase = .cRefill ∧ s.variant = .vExt ∧ c = .extStream w)) :
    s.seqMove = .code c { s with txf := ws } := by
  rcases hc with ⟨hp, hv, rfl⟩ | ⟨hp, hv, rfl⟩ | ⟨hp, hv, rfl⟩ | ⟨hp, hv, rfl⟩ <;>
    simp only [State.seqMove, hl, hp, hv, ht, if_true]

/-- The sequencer's phase rule runs where the phase takes no word, or none is there. -/
theorem seqMove_phase {s : State} (hl : s.life = .running)
    (h : s.txf = [] ∨ (s.phase ≠ .cIdle ∧ s.phase ≠ .cFetch0 ∧ s.phase ≠ .cRefill)) :
    s.seqMove = .code (.phase s.variant s.phase.code) s := by
  rcases seqMove_cases s with ⟨hl', _⟩ | ⟨_, hm⟩ | ⟨w, rest, _, ht, hw⟩
  · exact absurd hl hl'
  · exact hm
  · obtain h | ⟨hi, hf, hr⟩ := h
    · rw [ht] at h; cases h
    · rcases hw with ⟨hp, _⟩ | ⟨hp, _⟩ | ⟨hp, _⟩ | ⟨hp, _⟩ <;> simp_all

theorem targetMove_frame {s : State} {f : List Byte} {fs : List (List Byte)} (h : s.target.inbox = f :: fs) :
    s.targetMove = .code (.command f) { s with target := { s.target with inbox := fs } } := by
  simp only [State.targetMove, h]

theorem targetMove_idle {s : State} (h : s.target.inbox = []) : s.targetMove = .idle s := by
  simp only [State.targetMove, h]

theorem dmaMove_idle {s : State} (h : s.target.pending = []) : s.dmaMove = .idle s := by
  simp only [State.dmaMove, h]

theorem dmaMove_descriptor {s : State} {c : Channel} {cs : List Channel} {d : List Byte}
    (hp : s.target.pending = c :: cs) (hd : s.target.descriptor s.cfg c = some d) :
    s.dmaMove = .code (.desc d) { s with target := { s.target with pending := cs } } := by
  simp only [State.dmaMove, hp, hd]

/-- The descriptor of a channel is the eight bytes at the address in its config registers (43_flash_program.md R245,
30_encoding.md R106). -/
theorem Target.descriptor_eq {t : Target} {cfg : Config} {c : Channel} {high low : Half} {h l : Byte} {d : List Byte}
    (hc : (c = .chA ∧ high = cfg.addrDma0cfgh ∧ low = cfg.addrDma0cfgl) ∨
      (c = .chB ∧ high = cfg.addrDma1cfgh ∧ low = cfg.addrDma1cfgl))
    (hh : t.xdata.read high.toNat = some h) (hl : t.xdata.read low.toNat = some l) (hlen : d.length = 8)
    (hd : ∀ k : Nat, k < 8 → t.xdata.read (h.toNat * 256 + l.toNat + k) = d[k]?) : t.descriptor cfg c = some d := by
  have haddr : t.descAddress cfg c = some (h.toNat * 256 + l.toNat) := by
    rw [← be16_toNat]
    obtain ⟨rfl, rfl, rfl⟩ | ⟨rfl, rfl, rfl⟩ := hc <;> simp only [Target.descAddress, hh, hl]
  simp only [Target.descriptor, haddr]
  have hread := t.xdata.readBytes_eq (h.toNat * 256 + l.toNat) d (by rwa [hlen])
  rwa [hlen] at hread

theorem dmaMove_unknown {s : State} {c : Channel} {cs : List Channel} (hp : s.target.pending = c :: cs)
    (hd : s.target.descriptor s.cfg c = none) :
    s.dmaMove = .idle { s with target := { s.target with pending := cs }.forget s.clock } := by
  simp only [State.dmaMove, hp, hd]

/-- Settles O8: each agent's move is the code before it, and a code that decodes runs its instruction. -/
theorem stepRunsDecoded : Obligations.StepRunsDecoded := by
  intro s i
  refine ⟨?request, ?call, ?response, ?point, ?simple, ?extPrefix, ?stream0, ?stream, ?phase, ?stopped, ?frame,
    ?descriptor, ?registers⟩
  case request =>
    intro r rs hm ht hr hd
    rw [step_host hm, hostMove_request (s := s.begin) ht hr]
    exact run_code_ok hd
  case call =>
    intro o rest hm ht
    rw [step_host hm, hostMove_call (s := s.begin) ht]
    rfl
  case response =>
    intro f rest w ws hm ht hl hr hd
    rw [step_host hm, hostMove_response (s := s.begin) ht hl hr]
    exact run_code_ok hd
  case point =>
    intro t rest hm ht ho hf
    rw [step_host hm, hostMove_point (s := s.begin) ht ho hf]
    rfl
  case simple =>
    intro w ws hm hl hp hv ht hd
    rw [step_sequencer hm, seqMove_word (s := s.begin) hl ht (.inl ⟨hp, hv, rfl⟩)]
    exact run_code_ok hd
  case extPrefix =>
    intro w ws hm hl hp hv ht hd
    rw [step_sequencer hm, seqMove_word (s := s.begin) hl ht (.inr (.inl ⟨hp, hv, rfl⟩))]
    exact run_code_ok hd
  case stream0 =>
    intro w ws hm hl hp hv ht hd
    rw [step_sequencer hm, seqMove_word (s := s.begin) hl ht (.inr (.inr (.inl ⟨hp, hv, rfl⟩)))]
    exact run_code_ok hd
  case stream =>
    intro w ws hm hl hp hv ht hd
    rw [step_sequencer hm, seqMove_word (s := s.begin) hl ht (.inr (.inr (.inr ⟨hp, hv, rfl⟩)))]
    exact run_code_ok hd
  case phase =>
    intro hm hl ht hd
    rw [step_sequencer hm, seqMove_phase (s := s.begin) hl ht]
    exact run_code_ok hd
  case stopped =>
    intro hm hl
    rw [step_sequencer hm, State.seqMove, if_neg (by exact hl)]
    rfl
  case frame =>
    intro f fs hm hi hd
    rw [step_target hm, targetMove_frame (s := s.begin) hi]
    exact run_code_ok hd
  case descriptor =>
    intro c cs d hm hp hdesc hd
    rw [step_dma hm, dmaMove_descriptor (s := s.begin) hp hdesc]
    exact run_code_ok hd
  case registers =>
    intro c cs high low h l d hm hp hc hh hl hlen hbytes hd
    rw [step_dma hm, dmaMove_descriptor (s := s.begin) hp (Target.descriptor_eq hc hh hl hlen hbytes)]
    exact run_code_ok hd

/-- Settles O9: the same moves, where the code does not decode or there is none. -/
theorem stepRejects : Obligations.StepRejects := by
  intro s e
  refine ⟨?hop, ?phase, ?frame, ?descriptor, ?idle⟩
  case hop =>
    intro r rs hm ht hr hd
    rw [step_host hm, hostMove_request (s := s.begin) ht hr]
    exact run_code_error hd
  case phase =>
    intro hm hl hd
    rw [step_sequencer hm]
    rcases seqMove_cases s.begin with ⟨hl', _⟩ | ⟨_, hmove⟩ | ⟨w, rest, _, _, hw⟩
    · exact absurd hl hl'
    · rw [hmove]
      exact run_code_error hd
    · rcases hw with ⟨hp, hv, _⟩ | ⟨hp, hv, _⟩ | ⟨hp, hv, _⟩ | ⟨hp, hv, _⟩ <;>
        rw [State.begin_phase] at hp <;> rw [State.begin_variant] at hv <;> rw [hp, hv] at hd <;> cases hd
  case frame =>
    intro f fs hm hi hd
    rw [step_target hm, targetMove_frame (s := s.begin) hi]
    exact ⟨_, run_code_error hd, rfl⟩
  case descriptor =>
    intro c cs hm hp hd
    rw [step_dma hm, dmaMove_unknown (s := s.begin) hp hd]
    exact ⟨_, rfl, by simp, by simp, rfl, rfl, rfl, rfl, rfl, rfl, rfl, rfl⟩
  case idle =>
    rintro (⟨hm, ht, hr⟩ | ⟨hm, hi⟩ | ⟨hm, hp⟩)
    · rw [step_host hm, hostMove_idle (s := s.begin) ht hr, run]
    · rw [step_target hm, targetMove_idle (s := s.begin) hi, run]
    · rw [step_dma hm, dmaMove_idle (s := s.begin) hp, run]

end Sys2Proof.Machine
end

section
/-! PROOFS. The phase rules of the sequencer keep the invariant of the Link Engine: what the invariant says at one
phase, how a rule moves from a phase to the next, and one lemma per rule. -/

namespace Sys2Proof.Machine

/-! ### The parameters -/

/-- The constraints of 00_scope.md R7, and that OP_NULL has no count bits. -/
theorem parametersLegal_iff (cfg : Config) :
    parametersLegal cfg = true ↔
      1 ≤ cfg.nRstHold ∧ 1 ≤ cfg.txfDepth ∧ 1 ≤ cfg.rxfDepth ∧ 10 * cfg.tTargetMin ≤ cfg.tTick ∧
        cfg.opNull &&& 3#8 = 0#8 := by
  have hcount : ∀ op : Byte, countBits op = 0 ↔ op &&& 3#8 = 0#8 := by decide
  simp [parametersLegal, hcount, and_assoc]

/-! ### The invariant at a phase -/

/-- The pins as a phase has them (10_state.md R24, R25). -/
def pinsAt (p : Phase) (out oe : BitVec 3) : Bool :=
  dcOf oe && rstnOf oe && (p == .cDirin || ddOf oe == p.sending) && dcOf out == p.strobeHigh &&
    rstnOf out == !p.resetLow

theorem State.pinsLegal_eq (s : State) : s.pinsLegal = pinsAt s.phase s.pinsOut s.pinsOe := rfl

/-- The levels of strobe and reset at a phase. -/
theorem levels_of_pinsAt {p : Phase} {out oe : BitVec 3} (h : pinsAt p out oe = true) :
    dcOf out = p.strobeHigh ∧ rstnOf out = !p.resetLow := by
  simp only [pinsAt, Bool.and_eq_true, beq_iff_eq] at h
  obtain ⟨⟨_, hdc⟩, hrst⟩ := h
  exact ⟨hdc, hrst⟩

theorem State.linkLegal_iff (s : State) :
    s.linkLegal = true ↔ parametersLegal s.cfg = true ∧ s.lifeLegal = true ∧
      pinsAt s.phase s.pinsOut s.pinsOe = true ∧ s.regsLegal = true ∧
      (s.phase.resetLow = true → s.target.falls = s.falls.val.toNat) := by
  simp only [State.linkLegal, State.pinsLegal_eq, State.fallsLegal, Bool.and_eq_true, and_assoc]
  cases s.phase.resetLow <;> simp

/-- A running state with the invariant, at a phase: what a rule may suppose. -/
structure RunsAt (s : State) (p : Phase) : Prop where
  legal : s.linkLegal = true
  life : s.life = .running
  phase : s.phase = p

theorem RunsAt.cfg {s : State} {p : Phase} (h : RunsAt s p) : parametersLegal s.cfg = true := by
  obtain ⟨hcfg, _⟩ := s.linkLegal_iff.1 h.legal
  exact hcfg

theorem RunsAt.has {s : State} {p : Phase} (h : RunsAt s p) : s.variant.has p = true := by
  obtain ⟨_, hlife, _⟩ := s.linkLegal_iff.1 h.legal
  simpa [State.lifeLegal, h.life, h.phase] using hlife

theorem RunsAt.pins {s : State} {p : Phase} (h : RunsAt s p) : pinsAt p s.pinsOut s.pinsOe = true := by
  obtain ⟨_, _, hpins, _⟩ := s.linkLegal_iff.1 h.legal
  rwa [h.phase] at hpins

theorem RunsAt.regs {s : State} {p : Phase} (h : RunsAt s p) : s.regsLegal = true := by
  obtain ⟨_, _, _, hregs, _⟩ := s.linkLegal_iff.1 h.legal
  exact hregs

theorem RunsAt.targetFalls {s : State} {p : Phase} (h : RunsAt s p) (hp : p.resetLow = true) :
    s.target.falls = s.falls.val.toNat := by
  obtain ⟨_, _, _, _, hfalls⟩ := s.linkLegal_iff.1 h.legal
  exact hfalls (by rwa [h.phase])

/-- A phase rule keeps the invariant where it leads to a phase of the variant, moves the pins to those of the phase (`f`
and `g`), and leaves the registers and the edges counted as that phase has them. -/
theorem RunsAt.move {s t : State} {p : Phase} (h : RunsAt s p) (q : Phase) (f g : BitVec 3 → BitVec 3)
    (hframe : t.cfg = s.cfg ∧ t.life = s.life ∧ t.variant = s.variant ∧ t.phase = q)
    (hpins : t.pinsOut = f s.pinsOut ∧ t.pinsOe = g s.pinsOe)
    (has : s.variant.has p = true → s.variant.has q = true)
    (hlines : ∀ out oe : BitVec 3, pinsAt p out oe = true → pinsAt q (f out) (g oe) = true)
    (hregs : t.regsLegal = true) (hfalls : q.resetLow = true → t.target.falls = t.falls.val.toNat) :
    t.linkLegal = true := by
  obtain ⟨hc, hl, hv, hq⟩ := hframe
  obtain ⟨hout, hoe⟩ := hpins
  refine t.linkLegal_iff.2 ⟨hc ▸ h.cfg, ?_, ?_, hregs, hq ▸ hfalls⟩
  · simp [State.lifeLegal, hl, h.life, hv, hq, has h.has]
  · rw [hq, hout, hoe]
    exact hlines _ _ h.pins

/-- A variant at a phase of the attach program has every phase of it. -/
theorem Variant.has_attach {p q : Phase} (hp : Variant.vAttach.has p = true) (hq : Variant.vAttach.has q = true)
    {v : Variant} (h : v.has p = true) : v.has q = true := by
  cases v with
  | vNone => cases h
  | vAttach => exact hq
  | vSimple => cases p <;> simp [Variant.has] at h hp
  | vExt => cases p <;> simp [Variant.has] at h hp

/-- A variant at a phase of the command program has every phase of V_SIMPLE. -/
theorem Variant.has_command {p q : Phase} (hp : Variant.vExt.has p = true) (hq : Variant.vSimple.has q = true)
    {v : Variant} (h : v.has p = true) : v.has q = true := by
  cases v with
  | vNone => cases h
  | vAttach => cases p <;> simp [Variant.has] at h hp
  | vSimple => exact hq
  | vExt => cases q <;> first | rfl | cases hq

/-- No phase of V_SIMPLE has reset low. -/
theorem Phase.resetLow_command {q : Phase} (hq : Variant.vSimple.has q = true) : q.resetLow = false := by
  cases q <;> first | rfl | cases hq

/-- The two phases that take a stream word are V_EXT's alone (10_state.md R28). -/
theorem Variant.has_stream {v : Variant} {p : Phase} (hp : p = .cFetch0 ∨ p = .cRefill) (h : v.has p = true) :
    v = .vExt := by
  obtain rfl | rfl := hp <;> cases v <;> first | rfl | cases h

/-! ### Reading a register a phase rule has written -/

theorem State.rdTxseg_val {s : State} (h : s.txseg.written = true) : s.rdTxseg = s.txseg.val := Reg.read_written _ _ h
theorem State.rdBitcnt_val {s : State} (h : s.bitcnt.written = true) : s.rdBitcnt = s.bitcnt.val :=
  Reg.read_written _ _ h
theorem State.rdOsrb_val {s : State} (h : s.osrb.written = true) : s.rdOsrb = s.osrb.val := Reg.read_written _ _ h
theorem State.rdWcnt_val {s : State} (h : s.wcnt.written = true) : s.rdWcnt = s.wcnt.val := Reg.read_written _ _ h
theorem State.rdHoldcnt_val {s : State} (h : s.holdcnt.written = true) : s.rdHoldcnt = s.holdcnt.val :=
  Reg.read_written _ _ h
theorem State.rdFalls_val {s : State} (h : s.falls.written = true) : s.rdFalls = s.falls.val := Reg.read_written _ _ h

theorem Reg.holds_iff {α : Type} (r : Reg α) (p : α → Bool) : r.holds p = true ↔ r.written = true ∧ p r.val = true := by
  simp [Reg.holds]

theorem State.holdLegal_iff (s : State) :
    s.holdLegal = true ↔ s.holdcnt.written = true ∧ 1 ≤ s.holdcnt.val ∧ s.holdcnt.val ≤ s.cfg.nRstHold := by
  simp [State.holdLegal, Reg.holds]

/-- A count of the hold that has just been loaded is in its range (00_scope.md R7). -/
theorem holdLegal_loaded {s t : State} (hs : parametersLegal s.cfg = true) (hc : t.cfg = s.cfg)
    (hh : t.holdcnt = Reg.of s.cfg.nRstHold) : t.holdLegal = true := by
  obtain ⟨hone, _⟩ := (parametersLegal_iff s.cfg).1 hs
  rw [State.holdLegal_iff, hh, hc]
  exact ⟨rfl, hone, le_rfl⟩

/-- A count of the hold that does not come to its end goes on in its range. -/
theorem holdLegal_counted {s t : State} (hs : s.holdLegal = true) (hc : t.cfg = s.cfg)
    (hh : t.holdcnt = Reg.of (s.holdcnt.val - 1)) (hz : s.holdcnt.val - 1 ≠ 0) : t.holdLegal = true := by
  obtain ⟨_, _, hle⟩ := s.holdLegal_iff.1 hs
  rw [State.holdLegal_iff, hh, hc]
  exact ⟨rfl, Nat.one_le_iff_ne_zero.2 hz, (Nat.sub_le _ _).trans hle⟩

/-! ### The attach program -/

section Attach
variable {s t : State}

theorem execAtAssert_keeps (h : RunsAt s .atAssert) (he : exec .atAssert s = .next t) : t.linkLegal = true := by
  obtain rfl := Host.Outcome.next.inj he
  obtain ⟨_, hrst⟩ := levels_of_pinsAt h.pins
  refine h.move .atHold (fun out => setLine (setLine out 1 false) 2 false) (fun oe => setLine oe 0 false)
    ⟨rfl, rfl, rfl, rfl⟩ ⟨rfl, rfl⟩ (Variant.has_attach rfl rfl) (by decide) ?_ fun _ => ?_
  · exact Bool.and_eq_true_iff.2 ⟨holdLegal_loaded h.cfg rfl rfl, rfl⟩
  · simp [Target.sees_falls, hrst, Phase.resetLow]

theorem execAtHold_keeps (h : RunsAt s .atHold) (he : exec .atHold s = .next t) : t.linkLegal = true := by
  obtain rfl := Host.Outcome.next.inj he
  have hregs := h.regs
  simp only [State.regsLegal, h.phase, Bool.and_eq_true, Reg.holds_iff, beq_iff_eq] at hregs
  obtain ⟨hhold, hfw, hf⟩ := hregs
  obtain ⟨hw, _, _⟩ := s.holdLegal_iff.1 hhold
  rw [State.rdHoldcnt_val hw]
  by_cases hz : s.holdcnt.val - 1 = 0
  · refine h.move .atHi id id ⟨rfl, rfl, rfl, if_pos hz⟩ ⟨rfl, rfl⟩ (Variant.has_attach rfl rfl) (by decide) ?_
      fun _ => h.targetFalls rfl
    simp [State.regsLegal, hz, Reg.holds, hfw, hf, nAttachFalls]
  · refine h.move .atHold id id ⟨rfl, rfl, rfl, (if_neg hz).trans h.phase⟩ ⟨rfl, rfl⟩ id (fun _ _ => id) ?_
      fun _ => h.targetFalls rfl
    simpa [State.regsLegal, hz, h.phase, Reg.holds, hfw, hf] using
      holdLegal_counted (t := { s with holdcnt := Reg.of (s.holdcnt.val - 1) }) hhold rfl rfl hz

theorem execAtHi_keeps (h : RunsAt s .atHi) (he : exec .atHi s = .next t) : t.linkLegal = true := by
  obtain rfl := Host.Outcome.next.inj he
  refine h.move .atHihold (fun out => setLine out 1 true) id ⟨rfl, rfl, rfl, rfl⟩ ⟨rfl, rfl⟩
    (Variant.has_attach rfl rfl) (by decide) ?_ fun _ => ?_
  · simpa [State.regsLegal, h.phase, State.setDc] using h.regs
  · simpa [State.setDc, Target.sees_falls] using h.targetFalls rfl

theorem execAtHihold_keeps (h : RunsAt s .atHihold) (he : exec .atHihold s = .next t) : t.linkLegal = true := by
  obtain rfl := Host.Outcome.next.inj he
  refine h.move .atLo id id ⟨rfl, rfl, rfl, rfl⟩ ⟨rfl, rfl⟩ (Variant.has_attach rfl rfl) (by decide) ?_
    fun _ => h.targetFalls rfl
  simpa [State.regsLegal, h.phase] using h.regs

theorem execAtLo_keeps (h : RunsAt s .atLo) (he : exec .atLo s = .next t) : t.linkLegal = true := by
  obtain rfl := Host.Outcome.next.inj he
  obtain ⟨hdc, hrst⟩ := levels_of_pinsAt h.pins
  have hregs := h.regs
  simp only [State.regsLegal, h.phase, Reg.holds_iff, decide_eq_true_eq] at hregs
  obtain ⟨hw, hlt⟩ := hregs
  have hadd : (s.falls.val + 1#2).toNat = s.falls.val.toNat + 1 := by
    simp only [nAttachFalls] at hlt; bv_omega
  rw [State.rdFalls_val hw]
  refine h.move .atLohold (fun out => setLine out 1 false) id ⟨rfl, rfl, rfl, rfl⟩ ⟨rfl, rfl⟩
    (Variant.has_attach rfl rfl) (by decide) ?_ fun _ => ?_
  · simp only [State.regsLegal, Reg.holds_iff, Reg.of_written, Reg.of_val, hadd]
    simpa using hlt
  · simp only [State.setDc, State.drive_target, Target.sees_falls, Reg.of_val, hadd, ← h.targetFalls rfl]
    simp [hdc, hrst, Phase.resetLow, Phase.strobeHigh]

theorem execAtLohold_keeps (h : RunsAt s .atLohold) (he : exec .atLohold s = .next t) : t.linkLegal = true := by
  obtain rfl := Host.Outcome.next.inj he
  have hregs := h.regs
  simp only [State.regsLegal, h.phase, Reg.holds_iff, Bool.and_eq_true, decide_eq_true_eq] at hregs
  obtain ⟨hw, hge, hle⟩ := hregs
  rw [State.rdFalls_val hw]
  by_cases hlt : s.falls.val.toNat < nAttachFalls
  · refine h.move .atHi id id ⟨rfl, rfl, rfl, if_pos hlt⟩ ⟨rfl, rfl⟩ (Variant.has_attach rfl rfl) (by decide) ?_
      fun _ => h.targetFalls rfl
    simp [State.regsLegal, hlt, Reg.holds, hw]
  · refine h.move .atRelease id id ⟨rfl, rfl, rfl, if_neg hlt⟩ ⟨rfl, rfl⟩ (Variant.has_attach rfl rfl) (by decide) ?_
      fun _ => h.targetFalls rfl
    simp [State.regsLegal, hlt, Reg.holds, hw]
    omega

theorem execAtRelease_keeps (h : RunsAt s .atRelease) (he : exec .atRelease s = .next t) : t.linkLegal = true := by
  obtain rfl := Host.Outcome.next.inj he
  exact h.move .atSettle (fun out => setLine out 2 true) id ⟨rfl, rfl, rfl, rfl⟩ ⟨rfl, rfl⟩
    (Variant.has_attach rfl rfl) (by decide) (holdLegal_loaded h.cfg rfl rfl) nofun

theorem execAtSettle_keeps (h : RunsAt s .atSettle) (he : exec .atSettle s = .next t) : t.linkLegal = true := by
  obtain rfl := Host.Outcome.next.inj he
  have hhold := h.regs
  simp only [State.regsLegal, h.phase] at hhold
  obtain ⟨hw, _, _⟩ := s.holdLegal_iff.1 hhold
  rw [State.rdHoldcnt_val hw]
  by_cases hz : s.holdcnt.val - 1 = 0
  · refine h.move .atDone id id ⟨rfl, rfl, rfl, if_pos hz⟩ ⟨rfl, rfl⟩ (Variant.has_attach rfl rfl) (by decide) ?_ nofun
    simp [State.regsLegal, hz]
  · refine h.move .atSettle id id ⟨rfl, rfl, rfl, (if_neg hz).trans h.phase⟩ ⟨rfl, rfl⟩ id (fun _ _ => id) ?_ nofun
    simpa [State.regsLegal, hz, h.phase] using
      holdLegal_counted (t := { s with holdcnt := Reg.of (s.holdcnt.val - 1) }) hhold rfl rfl hz

end Attach

/-! ### The registers of a frame being sent -/

/-- What a segment asks of the counts (40_link_engine.md R150 to R158). -/
def State.segLegal (s : State) (captured : Bool) : Prop :=
  match s.txseg.val with
  | .segOp => s.bitcnt.val.toNat ≤ 8 ∧ (s.variant = .vSimple → s.wcnt.val = 0#16)
  | .segCnt =>
    s.variant = .vSimple ∧ s.bitcnt.val.toNat ≤ 2 ∧ s.wcnt.val.toNat < 2 ^ (2 - s.bitcnt.val.toNat + captured.toNat)
  | .segData =>
    s.bitcnt.val.toNat ≤ 8 ∧ s.wcnt.val ≠ 0#16 ∧ s.osrb.written = true ∧ 1 ≤ s.osrb.val.toNat ∧
      s.osrb.val.toNat ≤ 4 ∧ (s.variant = .vSimple → s.wcnt.val.toNat ≤ s.osrb.val.toNat)

theorem State.sendRegs_iff (s : State) (captured : Bool) :
    s.sendRegs captured = true ↔
      (s.osr.written = true ∧ s.opc.written = true ∧ s.rcnt.written = true ∧ s.wcnt.written = true ∧
        s.txseg.written = true ∧ s.bitcnt.written = true) ∧ 1 ≤ s.bitcnt.val.toNat ∧ s.segLegal captured := by
  cases hg : s.txseg.val <;>
    simp [State.sendRegs, State.segLegal, hg, Reg.holds, and_assoc, imp_iff_not_or]

/-- A count bit shifted in makes the count one bit longer (40_link_engine.md R154). -/
theorem shiftedIn_lt {w : Half} {b : Bool} {n : Nat} (hw : w.toNat < 2 ^ n) :
    ((w <<< 1) ||| (BitVec.ofBool b).zeroExtend 16).toNat < 2 ^ (n + 1) := by
  rw [BitVec.toNat_or]
  refine Nat.or_lt_two_pow ?_ ?_
  · calc (w <<< 1).toNat ≤ w.toNat <<< 1 := by rw [BitVec.toNat_shiftLeft]; exact Nat.mod_le _ _
      _ < 2 ^ (n + 1) := by rw [Nat.shiftLeft_eq, pow_succ]; omega
  · calc ((BitVec.ofBool b).zeroExtend 16).toNat < 2 ^ 1 := by cases b <;> decide
      _ ≤ 2 ^ (n + 1) := Nat.pow_le_pow_right (by omega) (by omega)

/-- A bit that does not end its segment leaves the counts as the segment asks; a captured count bit is then one of those
sent. -/
theorem segLegal_nextBit {s t : State} (hs : s.segLegal true) (hge : 1 ≤ s.bitcnt.val.toNat)
    (hb : t.bitcnt.val = s.bitcnt.val - 1#4) (hframe : t.txseg = s.txseg ∧ t.variant = s.variant ∧ t.wcnt = s.wcnt ∧
      t.osrb = s.osrb) : t.segLegal false := by
  obtain ⟨hg, hv, hw, ho⟩ := hframe
  have hsub : t.bitcnt.val.toNat = s.bitcnt.val.toNat - 1 := by rw [hb]; bv_omega
  revert hs
  simp only [State.segLegal, hg, hv, hw, ho, hsub]
  split
  · exact fun ⟨hle, hrest⟩ => ⟨by omega, hrest⟩
  · refine fun ⟨hsimple, hle, hlt⟩ => ⟨hsimple, by omega, ?_⟩
    rwa [show 2 - (s.bitcnt.val.toNat - 1) + false.toNat = 2 - s.bitcnt.val.toNat + true.toNat by
      simp only [Bool.toNat_false, Bool.toNat_true]; omega]
  · exact fun ⟨hle, hrest⟩ => ⟨by omega, hrest⟩

/-! ### The command program -/

section Command
variable {s t : State}

/-- The rules of the command program leave the edges counted alone: reset is never low there. -/
theorem RunsAt.moveCommand {p : Phase} (h : RunsAt s p) (q : Phase) (f g : BitVec 3 → BitVec 3)
    (hframe : t.cfg = s.cfg ∧ t.life = s.life ∧ t.variant = s.variant ∧ t.phase = q)
    (hpins : t.pinsOut = f s.pinsOut ∧ t.pinsOe = g s.pinsOe)
    (hlines : ∀ out oe : BitVec 3, pinsAt p out oe = true → pinsAt q (f out) (g oe) = true)
    (hregs : t.regsLegal = true) (hp : Variant.vExt.has p = true) (hq : Variant.vSimple.has q = true) :
    t.linkLegal = true :=
  h.move q f g hframe hpins (Variant.has_command hp hq) hlines hregs
    (by simp [Phase.resetLow_command hq])

theorem takeSimple_keeps (h : RunsAt s .cIdle) (w : Word) : (s.takeSimple w).linkLegal = true := by
  unfold State.takeSimple
  split
  · exact h.moveCommand .cDirin id id ⟨rfl, rfl, rfl, rfl⟩ ⟨rfl, rfl⟩ (by decide) rfl rfl rfl
  · refine h.moveCommand .cDirout id id ⟨rfl, rfl, rfl, rfl⟩ ⟨rfl, rfl⟩ (by decide) ?_ rfl rfl
    simp [State.regsLegal, State.sendRegs, Reg.holds]

theorem takePrefix_keeps (h : RunsAt s .cIdle) (hv : s.variant = .vExt) (wcount rcount : Half) :
    (s.takePrefix wcount rcount).linkLegal = true :=
  h.move .cFetch0 id id ⟨rfl, rfl, rfl, rfl⟩ ⟨rfl, rfl⟩ (fun _ => hv ▸ rfl) (by decide) rfl nofun

theorem takeStream0_keeps (h : RunsAt s .cFetch0) (w : Word) : (s.takeStream0 w).linkLegal = true := by
  have hv : s.variant = .vExt := Variant.has_stream (.inl rfl) h.has
  have hregs := h.regs
  simp only [State.regsLegal, h.phase, Bool.and_eq_true] at hregs
  obtain ⟨hww, hrw⟩ := hregs
  unfold State.takeStream0
  split
  · exact h.moveCommand .cDirin id id ⟨rfl, rfl, rfl, rfl⟩ ⟨rfl, rfl⟩ (by decide) hrw rfl rfl
  · refine h.moveCommand .cDirout id id ⟨rfl, rfl, rfl, rfl⟩ ⟨rfl, rfl⟩ (by decide) ?_ rfl rfl
    simp [State.regsLegal, State.sendRegs, Reg.holds, hww, hrw, hv]

theorem takeStream_keeps (h : RunsAt s .cRefill) (w : Word) : (s.takeStream w).linkLegal = true := by
  have hv : s.variant = .vExt := Variant.has_stream (.inr rfl) h.has
  have hregs := h.regs
  simp only [State.regsLegal, h.phase, Bool.and_eq_true, Reg.holds_iff, beq_iff_eq, bne_iff_ne] at hregs
  obtain ⟨⟨⟨⟨hopc, hrcnt⟩, hww, hw⟩, hsw, hs⟩, hbw, hb⟩ := hregs
  refine h.moveCommand .cTxset id id ⟨rfl, rfl, rfl, rfl⟩ ⟨rfl, rfl⟩ (by decide) ?_ rfl rfl
  simp [State.regsLegal, State.takeStream, State.sendRegs, Reg.holds, hopc, hrcnt, hww, hw, hsw, hs, hbw, hb, hv]

theorem execCDirout_keeps (h : RunsAt s .cDirout) (he : exec .cDirout s = .next t) : t.linkLegal = true := by
  obtain rfl := Host.Outcome.next.inj he
  refine h.moveCommand .cTxset id (fun oe => setLine oe 0 true) ⟨rfl, rfl, rfl, rfl⟩ ⟨rfl, rfl⟩ (by decide) ?_ rfl rfl
  have hregs := h.regs
  rwa [State.regsLegal, h.phase] at hregs

theorem execCTxset_keeps (h : RunsAt s .cTxset) (he : exec .cTxset s = .next t) : t.linkLegal = true := by
  obtain rfl := Host.Outcome.next.inj he
  have hregs := h.regs
  rw [State.regsLegal, h.phase] at hregs
  obtain ⟨⟨_, hopc, hrcnt, hww, hsw, hbw⟩, hge, hseg⟩ := (s.sendRegs_iff false).1 hregs
  rw [State.rdTxseg_val hsw, State.rdWcnt_val hww]
  generalize s.rdOsr.getLsbD 31 = b
  refine h.moveCommand .cTxhi (fun out => setLine out 0 b) id ⟨rfl, rfl, rfl, rfl⟩ ⟨rfl, rfl⟩
    (by revert b; decide) ((State.sendRegs_iff _ true).2 ⟨⟨rfl, hopc, hrcnt, ?_, hsw, hbw⟩, hge, ?_⟩) rfl rfl
  · dsimp only
    split
    · rfl
    · exact hww
  · cases hg : s.txseg.val with
    | segOp => simpa [State.segLegal, State.setDd, hg] using hseg
    | segData => simpa [State.segLegal, State.setDd, hg] using hseg
    | segCnt =>
      simp only [State.segLegal, hg] at hseg
      obtain ⟨hv, hle, hlt⟩ := hseg
      have hbit := shiftedIn_lt (w := s.wcnt.val) (b := b) hlt
      simpa [State.segLegal, State.setDd, hg, hv, hle] using hbit

theorem execCTxhi_keeps (h : RunsAt s .cTxhi) (he : exec .cTxhi s = .next t) : t.linkLegal = true := by
  obtain rfl := Host.Outcome.next.inj he
  refine h.moveCommand .cTxhold (fun out => setLine out 1 true) id ⟨rfl, rfl, rfl, rfl⟩ ⟨rfl, rfl⟩
    (by decide) ?_ rfl rfl
  have hregs := h.regs
  rwa [State.regsLegal, h.phase] at hregs

theorem execCTxhold_keeps (h : RunsAt s .cTxhold) (he : exec .cTxhold s = .next t) : t.linkLegal = true := by
  obtain rfl := Host.Outcome.next.inj he
  refine h.moveCommand .cTxlo id id ⟨rfl, rfl, rfl, rfl⟩ ⟨rfl, rfl⟩ (by decide) ?_ rfl rfl
  have hregs := h.regs
  rwa [State.regsLegal, h.phase] at hregs

/-- The end of a byte (40_link_engine.md R157), given the counts after it: `w` bytes to go, `o` of them in OSR. -/
theorem nextByte_keeps {u : State} {w : Half} {o : BitVec 3} (h : RunsAt s .cTxlo)
    (hframe : u.cfg = s.cfg ∧ u.life = s.life ∧ u.variant = s.variant)
    (hpins : u.pinsOut = setLine s.pinsOut 1 false ∧ u.pinsOe = s.pinsOe)
    (hwritten : u.osr.written = true ∧ u.opc.written = true ∧ u.rcnt.written = true ∧ u.wcnt.written = true)
    (hw : u.wcnt.val = w) (ho : u.osrb = Reg.of o) (ho4 : o.toNat ≤ 4)
    (hsimple : s.variant = .vSimple → w.toNat ≤ o.toNat) : (u.nextByte w o).linkLegal = true := by
  obtain ⟨hc, hl, hv⟩ := hframe
  obtain ⟨hosr, hopc, hrcnt, hww⟩ := hwritten
  unfold State.nextByte
  split
  · exact h.moveCommand .cDirin (fun out => setLine out 1 false) id ⟨hc, hl, hv, rfl⟩ hpins (by decide) hrcnt rfl rfl
  · rename_i hw0
    by_cases ho0 : o = 0#3
    · have hext : s.variant.has .cTxlo = true → s.variant.has .cRefill = true := by
        cases hsv : s.variant with
        | vSimple => have := hsimple hsv; subst ho0; exact absurd (BitVec.eq_of_toNat_eq (by simpa using this)) hw0
        | vExt => exact fun _ => rfl
        | vNone => exact nofun
        | vAttach => exact nofun
      refine h.move .cRefill (fun out => setLine out 1 false) id ⟨hc, hl, hv, if_pos ho0⟩ hpins hext (by decide) ?_
        nofun
      simp [State.regsLegal, ho0, Reg.holds, hopc, hrcnt, hww, hw, hw0]
    · refine h.moveCommand .cTxset (fun out => setLine out 1 false) id ⟨hc, hl, hv, if_neg ho0⟩ hpins (by decide) ?_
        rfl rfl
      rw [State.regsLegal, if_neg ho0]
      have ho1 : 1 ≤ o.toNat := by bv_omega
      exact (State.sendRegs_iff _ false).2 ⟨⟨hosr, hopc, hrcnt, hww, rfl, rfl⟩,
        (by decide : 1 ≤ (8#4 : BitVec 4).toNat), (by decide : (8#4 : BitVec 4).toNat ≤ 8), hw ▸ hw0, ho ▸ rfl,
        ho ▸ ho1, ho ▸ ho4, fun hs => by rw [hw, ho]; exact hsimple (hv ▸ hs)⟩

theorem execCTxlo_keeps (h : RunsAt s .cTxlo) (he : exec .cTxlo s = .next t) : t.linkLegal = true := by
  obtain rfl := Host.Outcome.next.inj he
  have hregs := h.regs
  rw [State.regsLegal, h.phase] at hregs
  obtain ⟨⟨hosr, hopc, hrcnt, hww, hsw, hbw⟩, hge, hseg⟩ := (s.sendRegs_iff true).1 hregs
  rw [State.rdTxseg_val hsw, State.rdWcnt_val hww, State.rdBitcnt_val hbw]
  dsimp only
  split
  · rename_i hb
    refine h.moveCommand .cTxset (fun out => setLine out 1 false) id ⟨rfl, rfl, rfl, rfl⟩ ⟨rfl, rfl⟩ (by decide)
      ((State.sendRegs_iff _ false).2 ⟨⟨hosr, hopc, hrcnt, hww, hsw, rfl⟩, ?_, ?_⟩) rfl rfl
    · simp only [Reg.of_val]; bv_omega
    · exact segLegal_nextBit hseg hge rfl ⟨rfl, rfl, rfl, rfl⟩
  · rename_i hb
    have hone : s.bitcnt.val = 1#4 := by bv_omega
    cases hg : s.txseg.val with
    | segOp =>
      simp only [State.segLegal, hg] at hseg
      obtain ⟨_, hw0⟩ := hseg
      dsimp only
      split
      · rename_i hv
        refine h.moveCommand .cTxset (fun out => setLine out 1 false) id ⟨rfl, rfl, rfl, rfl⟩ ⟨rfl, rfl⟩ (by decide)
          ((State.sendRegs_iff _ false).2 ⟨⟨hosr, hopc, hrcnt, hww, rfl, rfl⟩,
            (by decide : 1 ≤ (2#4 : BitVec 4).toNat), hv, (by decide : (2#4 : BitVec 4).toNat ≤ 2), ?_⟩) rfl rfl
        have : s.wcnt.val.toNat = 0 := by rw [hw0 hv]; rfl
        simp [State.setDc, this]
      · rename_i hv
        exact nextByte_keeps h ⟨rfl, rfl, rfl⟩ ⟨rfl, rfl⟩ ⟨hosr, hopc, hrcnt, hww⟩ rfl rfl (by decide)
          fun hs => absurd hs hv
    | segCnt =>
      simp only [State.segLegal, hg] at hseg
      obtain ⟨_, _, hlt⟩ := hseg
      refine nextByte_keeps h ⟨rfl, rfl, rfl⟩ ⟨rfl, rfl⟩ ⟨hosr, hopc, hrcnt, hww⟩ rfl rfl (by decide) fun _ => ?_
      rw [hone] at hlt
      exact Nat.le_of_lt_succ hlt
    | segData =>
      simp only [State.segLegal, hg] at hseg
      obtain ⟨_, hw0, how, ho1, ho4, hsimple⟩ := hseg
      rw [State.rdOsrb_val how]
      refine nextByte_keeps h ⟨rfl, rfl, rfl⟩ ⟨rfl, rfl⟩ ⟨hosr, hopc, hrcnt, rfl⟩ rfl rfl (by bv_omega) fun hs => ?_
      have := hsimple hs
      bv_omega

theorem execCDirin_keeps (h : RunsAt s .cDirin) (he : exec .cDirin s = .next t) : t.linkLegal = true := by
  obtain rfl := Host.Outcome.next.inj he
  have hrcnt := h.regs
  rw [State.regsLegal, h.phase] at hrcnt
  by_cases hz : s.rdRcnt = 0#16
  · refine h.moveCommand .cIdle id (fun oe => setLine oe 0 false) ⟨rfl, rfl, rfl, if_pos hz⟩ ⟨rfl, rfl⟩
      (by decide) ?_ rfl rfl
    simp [State.regsLegal, hz]
  · refine h.moveCommand .cSample id (fun oe => setLine oe 0 false) ⟨rfl, rfl, rfl, if_neg hz⟩ ⟨rfl, rfl⟩
      (by decide) ?_ rfl rfl
    simpa [State.regsLegal, hz, State.setDdOe] using hrcnt

theorem execCSample_keeps (h : RunsAt s .cSample) (he : exec .cSample s = .next t) : t.linkLegal = true := by
  obtain rfl := Host.Outcome.next.inj he
  have hrcnt := h.regs
  rw [State.regsLegal, h.phase] at hrcnt
  refine h.moveCommand .cRxhi id id ⟨rfl, rfl, rfl, rfl⟩ ⟨rfl, rfl⟩ (by decide) ?_ rfl rfl
  simp [State.regsLegal, Reg.holds, hrcnt]

theorem execCRxhi_keeps (h : RunsAt s .cRxhi) (he : exec .cRxhi s = .next t) : t.linkLegal = true := by
  obtain rfl := Host.Outcome.next.inj he
  refine h.moveCommand .cRxhold (fun out => setLine out 1 true) id ⟨rfl, rfl, rfl, rfl⟩ ⟨rfl, rfl⟩
    (by decide) ?_ rfl rfl
  have hregs := h.regs
  rwa [State.regsLegal, h.phase] at hregs

theorem execCRxhold_keeps (h : RunsAt s .cRxhold) (he : exec .cRxhold s = .next t) : t.linkLegal = true := by
  obtain rfl := Host.Outcome.next.inj he
  refine h.moveCommand .cRxlo id id ⟨rfl, rfl, rfl, rfl⟩ ⟨rfl, rfl⟩ (by decide) ?_ rfl rfl
  have hregs := h.regs
  rwa [State.regsLegal, h.phase] at hregs

theorem execCRxlo_keeps (h : RunsAt s .cRxlo) (he : exec .cRxlo s = .next t) : t.linkLegal = true := by
  obtain rfl := Host.Outcome.next.inj he
  have hregs := h.regs
  simp only [State.regsLegal, h.phase, Reg.holds_iff, Bool.and_eq_true, decide_eq_true_eq] at hregs
  obtain ⟨⟨⟨hrcnt, _⟩, hnr⟩, hbw, hge, hle⟩ := hregs
  rw [State.rdBitcnt_val hbw]
  by_cases hz : s.bitcnt.val - 1#4 ≠ 0#4
  · refine h.moveCommand .cRxhi (fun out => setLine out 1 false) id ⟨rfl, rfl, rfl, if_pos hz⟩ ⟨rfl, rfl⟩
      (by decide) ?_ rfl rfl
    have hge' : 1 ≤ (s.bitcnt.val - 1#4).toNat ∧ (s.bitcnt.val - 1#4).toNat ≤ 8 := by bv_omega
    simpa [State.regsLegal, hz, Reg.holds, State.setDc, hrcnt, hnr] using hge'
  · refine h.moveCommand .cPush (fun out => setLine out 1 false) id ⟨rfl, rfl, rfl, if_neg hz⟩ ⟨rfl, rfl⟩
      (by decide) ?_ rfl rfl
    simp [State.regsLegal, hz, State.setDc, hrcnt, hnr]

theorem execCPush_keeps (h : RunsAt s .cPush) (he : exec .cPush s = .next t) : t.linkLegal = true := by
  obtain rfl := Host.Outcome.next.inj he
  split
  · exact h.legal
  · by_cases hz : s.rdRcnt - 1#16 ≠ 0#16
    · refine h.moveCommand .cSample id id ⟨rfl, rfl, rfl, if_pos hz⟩ ⟨rfl, rfl⟩ (by decide) ?_ rfl rfl
      simp [State.regsLegal, hz]
    · refine h.moveCommand .cIdle id id ⟨rfl, rfl, rfl, if_neg hz⟩ ⟨rfl, rfl⟩ (by decide) ?_ rfl rfl
      simp [State.regsLegal, hz]

end Command
end Sys2Proof.Machine
end

section
/-! PROOFS. What each agent's turn writes: the host context acts on the Link Engine by the lifecycle operations alone,
the sequencer writes its own fields, the target and its DMA controller the target. -/

namespace Sys2Proof.Machine

/-! ### The part of the Link Engine -/

/-- The state with all but the Link Engine, the two queues and the target at their reset values. -/
def State.linkPart (s : State) : State :=
  { State.reset with
    cfg := s.cfg, pinsOut := s.pinsOut, pinsOe := s.pinsOe, life := s.life, leDone := s.leDone, variant := s.variant
    phase := s.phase, osr := s.osr, osrb := s.osrb, opc := s.opc, txseg := s.txseg, bitcnt := s.bitcnt, wcnt := s.wcnt
    rcnt := s.rcnt, isr := s.isr, nr := s.nr, holdcnt := s.holdcnt, falls := s.falls, txf := s.txf, rxf := s.rxf
    target := s.target }

/-- The state with all but what the Link Engine's invariant reads at its reset value. -/
def State.enginePart (s : State) : State :=
  { s.linkPart with
    leDone := false, txf := [], rxf := [], target := { Target.atPowerOn with falls := s.target.falls } }

theorem State.enginePart_linkPart (s : State) : s.linkPart.enginePart = s.enginePart := rfl

theorem State.linkLegal_enginePart (s : State) : s.enginePart.linkLegal = s.linkLegal := rfl

theorem enginePart_of_linkPart {s t : State} (h : t.linkPart = s.linkPart) : t.enginePart = s.enginePart := by
  rw [← State.enginePart_linkPart, h, State.enginePart_linkPart]

theorem enginePart_of_target {s t : State} (h : t = { s with target := t.target })
    (hf : t.target.falls = s.target.falls) : t.enginePart = s.enginePart := by
  rw [h]
  simp only [State.enginePart, State.linkPart, hf]

/-- The invariant of the Link Engine speaks of nothing but the engine's part. -/
theorem linkLegal_of_enginePart {s t : State} (h : t.enginePart = s.enginePart) (hs : s.linkLegal = true) :
    t.linkLegal = true := by
  rw [← State.linkLegal_enginePart, h, State.linkLegal_enginePart, hs]

/-! ### Failures -/

theorem State.raise_enginePart (s : State) (f : Failure) : (s.raise f).enginePart = s.enginePart := by
  cases f <;> rfl

theorem State.askTimer_enginePart (s : State) (i : TimerId) : (s.askTimer i).enginePart = s.enginePart := by
  cases i <;> rfl

theorem State.armTimer_enginePart (s : State) (i : TimerId) : (s.armTimer i).enginePart = s.enginePart := by
  cases i <;> rfl

/-! ### The host context -/

/-- What the host context can do to the Link Engine: nothing, or one of the five lifecycle operations where the engine's
state allows it (40_link_engine.md R133 to R137). -/
inductive HostAct : State → State → Prop
  | context {s t : State} (h : t.enginePart = s.enginePart) : HostAct s t
  | load {s : State} {v : Variant} (hl : s.life = .unloaded) (hv : v ≠ .vNone) : HostAct s (s.load v)
  | start {s : State} (hl : s.life = .loaded) : HostAct s s.start
  | abort {s : State} (hl : s.life = .running) : HostAct s s.abort
  | stop {s : State} (hl : s.life = .running) : HostAct s s.stop
  | deinit {s : State} (hl : s.life = .loaded) : HostAct s s.deinit

/-- What a turn of the host context does to the engine: such acts one after the other (R138, R139, 60_exceptions.md
R305). -/
abbrev HostActs : State → State → Prop := Relation.ReflTransGen HostAct

theorem context_acts {s t : State} (h : t.enginePart = s.enginePart) : HostActs s t := .single (.context h)

/-- An operation acts as its effect does: a refusal is no act. -/
theorem issue_acts {ok : Bool} {s t u : State} (h : issue ok s t = .next u) (ht : ok = true → HostActs s t) :
    HostActs s u := by
  obtain ⟨hok, rfl⟩ | ⟨_, rfl⟩ := issue_eq_next.1 h
  · exact ht hok
  · exact context_acts rfl

theorem teardown_acts (s : State) : HostActs s s.teardown := by
  unfold State.teardown
  split
  · rename_i hl; exact .tail (.single (.stop hl)) (.deinit rfl)
  · rename_i hl; exact .single (.deinit hl)
  · exact .refl

theorem State.teardown_life (s : State) : s.teardown.life = .unloaded := by rw [s.teardown_frame]

theorem restart_acts (s : State) {v : Variant} (hv : v ≠ .vNone) : HostActs s (s.teardown.load v).start :=
  ((teardown_acts s).tail (.load s.teardown_life hv)).tail (.start rfl)

theorem switch_acts (s : State) {v : Variant} (hv : v ≠ .vNone) : HostActs s (s.switch v) := by
  unfold State.switch
  split
  · exact .refl
  · exact restart_acts s hv

theorem linkTimeout_acts (s : State) : HostActs s s.linkTimeout := by
  unfold State.linkTimeout
  split
  · rename_i hl; exact .tail (.single (.abort hl)) (.context (State.raise_enginePart _ _))
  · exact context_acts (State.raise_enginePart _ _)

/-- An operation leaves the Link Engine, the queues and the target alone where its effect does. -/
theorem issue_linkPart {ok : Bool} {s t u : State} (h : issue ok s t = .next u) (ht : t.linkPart = s.linkPart) :
    u.linkPart = s.linkPart := by
  obtain ⟨_, rfl⟩ | ⟨_, rfl⟩ := issue_eq_next.1 h
  · exact ht
  · rfl

/-- The operations above the exchange that tear no session down: AL, ID, FP, FR, and three of TO. -/
def isUpper : Instr → Bool
  | .leLoad _ | .leStart | .leStop | .leAbort | .leDeinit | .leSwitch _ | .leAttach | .cpXchg _ | .toSessionEnd
  | .toRestart => false
  | i => isOperation i

/-- The calls of an upper operation are tasks it leaves: when it is issued it writes nothing of the Link Engine. -/
theorem exec_upper_linkPart {s t : State} {i : Instr} (hi : isUpper i = true) (h : exec i s = .next t) :
    t.linkPart = s.linkPart := by
  cases i
  case fpClockInit => exact issue_linkPart h (by split <;> rfl)
  all_goals first | exact issue_linkPart h rfl | exact (Bool.false_ne_true hi).elim

/-- An operation issued. -/
theorem exec_operation_acts {s t : State} {i : Instr} (hi : isOperation i = true) (h : exec i s = .next t) :
    HostActs s t := by
  cases hu : isUpper i with
  | true => exact context_acts (enginePart_of_linkPart (exec_upper_linkPart hu h))
  | false =>
    cases i
    case leLoad v =>
      refine issue_acts h fun hok => .tail (.single (.load (v := v) ?_ ?_)) (.context rfl) <;> simp_all
    case leStart => exact issue_acts h fun hok => .tail (.single (.start (by simp_all))) (.context rfl)
    case leStop => exact issue_acts h fun hok => .tail (.single (.stop (by simp_all))) (.context rfl)
    case leAbort => exact issue_acts h fun hok => .tail (.single (.abort (by simp_all))) (.context rfl)
    case leDeinit => exact issue_acts h fun hok => .tail (.single (.deinit (by simp_all))) (.context rfl)
    case leSwitch v => exact issue_acts h fun hok => .tail (switch_acts s (by simp_all)) (.context rfl)
    case leAttach => exact issue_acts h fun _ => .tail (restart_acts s (v := .vAttach) (by decide)) (.context rfl)
    case cpXchg f =>
      refine issue_acts h fun _ => .tail (switch_acts s (v := variantOf f.kind) ?_) (.context rfl)
      cases f.kind <;> decide
    case toSessionEnd => exact issue_acts h fun _ => .tail (teardown_acts s) (.context rfl)
    case toRestart => exact issue_acts h fun _ => .tail (teardown_acts s) (.context rfl)
    all_goals first | exact (Bool.false_ne_true hi).elim | exact (Bool.false_ne_true hu.symm).elim

theorem stepSend_acts (words : List Word) (rest : List Task) (s : State) : HostActs s (stepSend words rest s) := by
  unfold stepSend
  split
  · exact context_acts rfl
  · split
    · split
      · exact Relation.ReflTransGen.trans (context_acts (s.askTimer_enginePart _)) (linkTimeout_acts _)
      · exact context_acts (s.askTimer_enginePart _)
    · exact context_acts rfl

theorem stepAwait_acts (f : Frame) (rest : List Task) (s : State) : HostActs s (stepAwait f rest s) := by
  have hexpired : HostActs s (s.askTimer .tmo).linkTimeout :=
    Relation.ReflTransGen.trans (context_acts (s.askTimer_enginePart _)) (linkTimeout_acts _)
  unfold stepAwait
  repeat' split
  all_goals first | exact hexpired | exact context_acts (s.askTimer_enginePart _) | exact context_acts rfl

/-- A point of an operation passed. Only the waits of an exchange act on the engine, by their timeout. -/
theorem stepTask_acts (k : Task) (rest : List Task) (s : State) : HostActs s (stepTask k rest s) := by
  cases k
  case send words => exact stepSend_acts words rest s
  case await f => exact stepAwait_acts f rest s
  all_goals refine context_acts ?_; simp only [stepTask]
  case waitDone => split <;> rfl
  case arm i => exact s.armTimer_enginePart i
  case identify => unfold stepIdentify; split <;> rfl
  case eraseTest => unfold stepEraseTest; repeat' split
                    all_goals rfl
  case progTest => unfold stepProgTest; repeat' split
                   all_goals rfl
  case clockTest => unfold stepClockTest; repeat' split
                    all_goals rfl
  case readSeg => unfold stepReadSeg; split <;> rfl
  case readByte => unfold stepReadByte; split <;> rfl
  case writeLoop => unfold stepWriteLoop; repeat' split
                    all_goals first | rfl | (dsimp only; split <;> rfl)
  case readLoop => unfold stepReadLoop; split <;> rfl
  case appendBlock => unfold stepAppendBlock; split <;> rfl
  all_goals rfl

/-- A turn of the host context. -/
theorem run_hostMove_acts {s t : State} (h : run s.hostMove = .next t) : HostActs s t := by
  rcases run_hostMove h with ⟨o, rest, _, he⟩ | ⟨_, _, _, ws, _, _, rfl⟩ | ⟨k, rest, _, rfl⟩ |
    ⟨_, rs, i, _, _, hd, he⟩ | ⟨_, rs, _, _, rfl⟩ | ⟨_, _, rfl⟩
  · refine .trans ?_ (exec_operation_acts o.instr_isOperation he)
    exact context_acts rfl
  · exact context_acts rfl
  · exact stepTask_acts k rest s
  · refine .trans ?_ (exec_operation_acts (decodeHop_isOperation hd) he)
    exact context_acts rfl
  · exact context_acts rfl
  · exact .refl

/-! ### The target -/

theorem Target.stored_falls (t : Target) (cfg : Config) (a : Half) (v : Byte) : (t.stored cfg a v).falls = t.falls := by
  unfold Target.stored Target.armStored Target.delivered
  repeat' split
  all_goals rfl

theorem Target.delivered_falls (t : Target) (cfg : Config) (data : List Byte) :
    (t.delivered cfg data).falls = t.falls := by
  unfold Target.delivered
  split <;> rfl

/-- A command changes nothing but the target, and of the target not the edges counted, where its effect leaves them. -/
theorem command_frame {s t : State} {effect : Target → Target} 
    (h : (.next (s.command effect) : Host.Outcome State Fault Refusal) = .next t)
    (he : (effect s.target).falls = s.target.falls) :
    t = { s with target := t.target } ∧ t.target.falls = s.target.falls := by
  obtain rfl := Host.Outcome.next.inj h
  obtain ⟨_, hc⟩ | ⟨_, hc⟩ := s.command_cases effect <;> rw [hc]
  · exact ⟨rfl, he⟩
  · exact ⟨rfl, rfl⟩

theorem exec_command_frame {s t : State} {i : Instr} (hi : isCommand i = true) (h : exec i s = .next t) :
    t = { s with target := t.target } ∧ t.target.falls = s.target.falls := by
  cases i
  case tMovxSt => exact command_frame h (Target.stored_falls _ _ _ _)
  case burstWrite => exact command_frame h (Target.delivered_falls _ _ _)
  case debugInstr1 =>
    refine command_frame h ?_
    split
    · exact Target.stored_falls _ _ _ _
    · repeat' split
      all_goals rfl
  case debugInstr2 => exact command_frame h (by split <;> rfl)
  case debugInstr3 => exact command_frame h (by split <;> rfl)
  all_goals first | exact command_frame h rfl | exact (Bool.false_ne_true hi).elim

/-- A turn of the target. -/
theorem run_targetMove_frame {s t : State} (h : run s.targetMove = .next t) :
    t = { s with target := t.target } ∧ t.target.falls = s.target.falls := by
  rcases run_targetMove h with ⟨f, fs, i, _, hd, he⟩ | ⟨f, fs, _, rfl⟩ | ⟨_, rfl⟩
  · obtain ⟨ht, hf⟩ := exec_command_frame (decodeCommand_isCommand hd) he
    exact ⟨ht, hf⟩
  · exact ⟨rfl, rfl⟩
  · exact ⟨rfl, rfl⟩

/-- A turn of the DMA controller: it leaves what the target has taken from the wire and has still to give on it. -/
theorem run_dmaMove_frame {s t : State} (h : run s.dmaMove = .next t) :
    t = { s with target := t.target } ∧ t.target.resp = s.target.resp ∧ t.target.inbox = s.target.inbox ∧
      t.target.bits = s.target.bits ∧ t.target.falls = s.target.falls ∧ t.target.inDebug = s.target.inDebug := by
  rcases run_dmaMove h with ⟨_, cs, _, _, _, _, _, _, he⟩ | ⟨_, cs, _, rfl⟩ | rfl
  · obtain ⟨ht, hwire⟩ := execDmaDescriptor_wire he
    exact ⟨ht, hwire⟩
  · exact ⟨rfl, rfl, rfl, rfl, rfl, rfl⟩
  · exact ⟨rfl, rfl, rfl, rfl, rfl, rfl⟩

/-! ### The sequencer -/

/-- `s` with all that the sequencer writes taken from `t`. -/
def State.seqFrom (s t : State) : State :=
  { s with
    pinsOut := t.pinsOut, pinsOe := t.pinsOe, leDone := t.leDone, phase := t.phase, osr := t.osr, osrb := t.osrb
    opc := t.opc, txseg := t.txseg, bitcnt := t.bitcnt, wcnt := t.wcnt, rcnt := t.rcnt, isr := t.isr, nr := t.nr
    holdcnt := t.holdcnt, falls := t.falls, txf := t.txf, rxf := t.rxf, target := t.target, dd := t.dd }

/-- What a rule of the sequencer leaves: all that the host context alone writes, and the drivers of strobe and reset. -/
def SeqFrame (s t : State) : Prop :=
  t = s.seqFrom t ∧ dcOf t.pinsOe = dcOf s.pinsOe ∧ rstnOf t.pinsOe = rstnOf s.pinsOe

theorem SeqFrame.refl (s : State) : SeqFrame s s := ⟨rfl, rfl, rfl⟩

/-- The rules of the sequencer's phases (10_state.md R28). -/
def isPhaseRule (i : Instr) : Bool :=
  match encode Config.default i with
  | .phase _ _ => true
  | _ => false

theorem decodePhase_isPhaseRule {v : Variant} {c : Byte} {i : Instr} (h : decodePhase v c = .ok i) :
    isPhaseRule i = true := by
  unfold decodePhase attachPhase extPhase commandPhase at h
  repeat' split at h
  all_goals first | contradiction | (injection h with h; subst h; rfl)

theorem takeSimple_frame (s : State) (txf : List Word) (w : Word) :
    SeqFrame s (State.takeSimple { s with txf := txf } w) := by
  unfold State.takeSimple
  split <;> exact ⟨rfl, rfl, rfl⟩

theorem takePrefix_frame (s : State) (txf : List Word) (wcount rcount : Half) :
    SeqFrame s (State.takePrefix { s with txf := txf } wcount rcount) := ⟨rfl, rfl, rfl⟩

theorem takeStream0_frame (s : State) (txf : List Word) (w : Word) :
    SeqFrame s (State.takeStream0 { s with txf := txf } w) := by
  unfold State.takeStream0
  split <;> exact ⟨rfl, rfl, rfl⟩

theorem takeStream_frame (s : State) (txf : List Word) (w : Word) :
    SeqFrame s (State.takeStream { s with txf := txf } w) := ⟨rfl, rfl, rfl⟩

theorem nextByte_frame {s t : State} (h : SeqFrame s t) (w : Half) (o : BitVec 3) : SeqFrame s (t.nextByte w o) := by
  obtain ⟨ht, hdc, hrst⟩ := h
  unfold State.nextByte
  split
  · exact ⟨congrArg (fun u : State => { u with phase := .cDirin }) ht, hdc, hrst⟩
  · exact ⟨congrArg (fun u : State =>
      { u with txseg := Reg.of .segData, bitcnt := Reg.of 8#4, phase := if o = 0#3 then .cRefill else .cTxset }) ht,
      hdc, hrst⟩

/-- A rule that switches the data line's driver leaves the two others. -/
theorem SeqFrame.of_ddOe {s t : State} {b : Bool} (h : t = s.seqFrom t) (hoe : t.pinsOe = setLine s.pinsOe 0 b) :
    SeqFrame s t := ⟨h, by rw [hoe, dcOf_setLine_data], by rw [hoe, rstnOf_setLine_data]⟩

theorem execCTxlo_frame {s t : State} (h : exec .cTxlo s = .next t) : SeqFrame s t := by
  obtain rfl := Host.Outcome.next.inj h
  dsimp only
  split
  · exact ⟨rfl, rfl, rfl⟩
  · split
    · split
      · exact ⟨rfl, rfl, rfl⟩
      · exact nextByte_frame ⟨rfl, rfl, rfl⟩ _ _
    · exact nextByte_frame ⟨rfl, rfl, rfl⟩ _ _
    · exact nextByte_frame ⟨rfl, rfl, rfl⟩ _ _

theorem exec_phaseRule_frame {s t : State} {i : Instr} (hi : isPhaseRule i = true) (h : exec i s = .next t) :
    SeqFrame s t := by
  cases i
  case cTxlo => exact execCTxlo_frame h
  all_goals first | exact (Bool.false_ne_true hi).elim | obtain rfl := Host.Outcome.next.inj h
  case atAssert => exact .of_ddOe (b := false) rfl rfl
  case cDirout => exact .of_ddOe (b := true) rfl rfl
  case cDirin => exact .of_ddOe (b := false) rfl rfl
  case cIdleSimple => split; exacts [.refl s, takeSimple_frame s _ _]
  case cIdleExt => split; exacts [.refl s, takePrefix_frame s _ _ _]
  case cFetch0 => split; exacts [.refl s, takeStream0_frame s _ _]
  case cRefill => split; exacts [.refl s, takeStream_frame s _ _]
  case cPush => split; exacts [.refl s, ⟨rfl, rfl, rfl⟩]
  all_goals exact ⟨rfl, rfl, rfl⟩

end Sys2Proof.Machine
end

section
/-! PROOFS. What every step keeps: the invariant of the Link Engine (O51), the parameters (O57), what is not the moving
agent's (O58). -/

namespace Sys2Proof.Machine

/-! ### The lifecycle operations keep the invariant -/

/-- In the phases the lifecycle operations lead to, the engine rests: its pins are those of a stopped engine and no
register is read. -/
theorem linkLegal_resting {s : State} (hcfg : parametersLegal s.cfg = true) (hlife : s.lifeLegal = true)
    (hphase : s.phase = .pStopped ∨ s.phase = .atAssert ∨ s.phase = .atDone ∨ s.phase = .cIdle)
    (hpins : pinsAt .pStopped s.pinsOut s.pinsOe = true) : s.linkLegal = true := by
  refine s.linkLegal_iff.2 ⟨hcfg, hlife, ?pins, ?regs, ?falls⟩
  case pins => rcases hphase with hp | hp | hp | hp <;> rw [hp] <;> exact hpins
  case regs => rcases hphase with hp | hp | hp | hp <;> simp only [State.regsLegal, hp]
  case falls => rcases hphase with hp | hp | hp | hp <;> simp [hp, Phase.resetLow]

/-- A phase of a command variant never has reset low. -/
theorem Variant.has_resetHigh {v : Variant} {p : Phase} (h : v.has p = true) (hv : v ≠ .vAttach) :
    p.resetLow = false := by
  cases v with
  | vNone => cases h
  | vAttach => exact absurd rfl hv
  | vSimple => exact Phase.resetLow_command h
  | vExt => cases p <;> first | rfl | cases h

/-- An abort leaves the pins as a stopped engine has them, whatever the phase it cuts (40_link_engine.md R136). -/
theorem abort_pinsAt {s : State} {p : Phase} (h : RunsAt s p) :
    pinsAt .pStopped s.abort.pinsOut s.abort.pinsOe = true := by
  obtain ⟨hdc, hdd, _, hrst⟩ := s.abort_pins
  have hpins := h.pins
  simp only [pinsAt, Bool.and_eq_true, beq_iff_eq] at hpins
  obtain ⟨⟨⟨⟨hdcOe, hrstOe⟩, _⟩, _⟩, hrstOut⟩ := hpins
  have hhigh : s.abort.rstnOut = true := by
    rw [hrst]
    by_cases hv : s.variant = .vAttach
    · simp [hv]
    · simp [State.rstnOut, hrstOut, Variant.has_resetHigh h.has hv]
  simp only [State.dcOut, State.ddOe, State.rstnOut, State.abort_pinsOut, State.abort_pinsOe] at hdc hdd hhigh
  simp [pinsAt, hdc, hhigh, hdcOe, hrstOe, Phase.sending, Phase.strobeHigh, Phase.resetLow]

theorem HostAct.keeps {s t : State} (h : HostAct s t) (hs : s.linkLegal = true) : t.linkLegal = true := by
  obtain ⟨hcfg, hlife, hpins, _⟩ := s.linkLegal_iff.1 hs
  cases h with
  | context h => exact linkLegal_of_enginePart h hs
  | load hl hv =>
    obtain ⟨_, hp⟩ : s.variant = .vNone ∧ s.phase = .pStopped := by simpa [State.lifeLegal, hl] using hlife
    exact linkLegal_resting hcfg (by simp [State.lifeLegal, hp, hv]) (.inl hp) (hp ▸ hpins)
  | start hl =>
    obtain ⟨hv, hp⟩ : s.variant ≠ .vNone ∧ s.phase = .pStopped := by simpa [State.lifeLegal, hl] using hlife
    refine linkLegal_resting hcfg ?_ ?_ (hp ▸ hpins)
    · cases hsv : s.variant <;> simp_all [State.lifeLegal, Variant.has]
    · by_cases ha : s.variant = .vAttach <;> simp [ha]
  | abort hl =>
    have hr : RunsAt s s.phase := ⟨hs, hl, rfl⟩
    refine linkLegal_resting hcfg ?_ ?_ (abort_pinsAt hr)
    · have := hr.has
      cases hsv : s.variant <;> simp_all [State.lifeLegal, Variant.has]
    · by_cases ha : s.variant = .vAttach <;> simp [ha]
  | stop hl =>
    have hr : RunsAt s s.phase := ⟨hs, hl, rfl⟩
    have hv : s.variant ≠ .vNone := by
      intro hv; have := hr.has; rw [hv] at this; cases this
    exact linkLegal_resting hcfg (by simp [State.lifeLegal, hv]) (.inl rfl) (abort_pinsAt hr)
  | deinit hl =>
    obtain ⟨_, hp⟩ : s.variant ≠ .vNone ∧ s.phase = .pStopped := by simpa [State.lifeLegal, hl] using hlife
    exact linkLegal_resting hcfg (by simp [State.lifeLegal, hp]) (.inl hp) (hp ▸ hpins)

theorem HostActs.keeps {s t : State} (h : HostActs s t) (hs : s.linkLegal = true) : t.linkLegal = true := by
  induction h with
  | refl => exact hs
  | tail _ hact ih => exact hact.keeps ih

/-! ### The sequencer's turn keeps it -/

/-- The rule of a phase under a variant (10_state.md R28). -/
def ruleOf (v : Variant) : Phase → Instr
  | .pStopped => .pStopped
  | .atAssert => .atAssert
  | .atHold => .atHold
  | .atHi => .atHi
  | .atHihold => .atHihold
  | .atLo => .atLo
  | .atLohold => .atLohold
  | .atRelease => .atRelease
  | .atSettle => .atSettle
  | .atDone => .atDone
  | .cIdle => if v = .vSimple then .cIdleSimple else .cIdleExt
  | .cFetch0 => .cFetch0
  | .cDirout => .cDirout
  | .cTxset => .cTxset
  | .cTxhi => .cTxhi
  | .cTxhold => .cTxhold
  | .cTxlo => .cTxlo
  | .cRefill => .cRefill
  | .cDirin => .cDirin
  | .cSample => .cSample
  | .cRxhi => .cRxhi
  | .cRxhold => .cRxhold
  | .cRxlo => .cRxlo
  | .cPush => .cPush

theorem decodePhase_code {v : Variant} {p : Phase} (h : v.has p = true) : decodePhase v p.code = .ok (ruleOf v p) := by
  cases v with
  | vNone => cases h
  | vAttach => cases p <;> first | rfl | cases h
  | vSimple => cases p <;> first | rfl | cases h
  | vExt => cases p <;> first | rfl | cases h

theorem RunsAt.popped {s : State} {p : Phase} (h : RunsAt s p) (words : List Word) :
    RunsAt { s with txf := words } p := ⟨h.legal, h.life, h.phase⟩

theorem execCIdleSimple_keeps {s t : State} (h : RunsAt s .cIdle) (he : exec .cIdleSimple s = .next t) :
    t.linkLegal = true := by
  obtain rfl := Host.Outcome.next.inj he
  split
  · exact h.legal
  · exact takeSimple_keeps (h.popped _) _

theorem execCIdleExt_keeps {s t : State} (h : RunsAt s .cIdle) (hv : s.variant = .vExt)
    (he : exec .cIdleExt s = .next t) : t.linkLegal = true := by
  obtain rfl := Host.Outcome.next.inj he
  split
  · exact h.legal
  · exact takePrefix_keeps (h.popped _) hv _ _

theorem execCFetch0_keeps {s t : State} (h : RunsAt s .cFetch0) (he : exec .cFetch0 s = .next t) :
    t.linkLegal = true := by
  obtain rfl := Host.Outcome.next.inj he
  split
  · exact h.legal
  · exact takeStream0_keeps (h.popped _) _

theorem execCRefill_keeps {s t : State} (h : RunsAt s .cRefill) (he : exec .cRefill s = .next t) :
    t.linkLegal = true := by
  obtain rfl := Host.Outcome.next.inj he
  split
  · exact h.legal
  · exact takeStream_keeps (h.popped _) _

/-- The rule of the phase a running engine is at. -/
theorem exec_rule_keeps {s t : State} {p : Phase} (h : RunsAt s p) (he : exec (ruleOf s.variant p) s = .next t) :
    t.linkLegal = true := by
  cases p with
  | pStopped => obtain rfl := Host.Outcome.next.inj he; exact h.legal
  | atAssert => exact execAtAssert_keeps h he
  | atHold => exact execAtHold_keeps h he
  | atHi => exact execAtHi_keeps h he
  | atHihold => exact execAtHihold_keeps h he
  | atLo => exact execAtLo_keeps h he
  | atLohold => exact execAtLohold_keeps h he
  | atRelease => exact execAtRelease_keeps h he
  | atSettle => exact execAtSettle_keeps h he
  | atDone => obtain rfl := Host.Outcome.next.inj he; exact h.legal
  | cIdle =>
    have hv := h.has
    cases hsv : s.variant <;> rw [hsv] at hv he
    · cases hv
    · cases hv
    · exact execCIdleSimple_keeps h he
    · exact execCIdleExt_keeps h hsv he
  | cFetch0 => exact execCFetch0_keeps h he
  | cDirout => exact execCDirout_keeps h he
  | cTxset => exact execCTxset_keeps h he
  | cTxhi => exact execCTxhi_keeps h he
  | cTxhold => exact execCTxhold_keeps h he
  | cTxlo => exact execCTxlo_keeps h he
  | cRefill => exact execCRefill_keeps h he
  | cDirin => exact execCDirin_keeps h he
  | cSample => exact execCSample_keeps h he
  | cRxhi => exact execCRxhi_keeps h he
  | cRxhold => exact execCRxhold_keeps h he
  | cRxlo => exact execCRxlo_keeps h he
  | cPush => exact execCPush_keeps h he

/-! What a word taken from TXF does, in each of the four formats (30_encoding.md R114). -/

theorem run_simple {s t : State} {w : Word} (h : run (.code (.simple w) s) = .next t) :
    ∃ w' : Word, t = s.takeSimple w' := by
  simp only [run, decode, decodeSimple] at h
  split at h <;> exact ⟨_, (Host.Outcome.next.inj h).symm⟩

theorem run_extPrefix {s t : State} {w : Word} (h : run (.code (.extPrefix w) s) = .next t) :
    ∃ wcount rcount : Half, t = s.takePrefix wcount rcount := ⟨_, _, (Host.Outcome.next.inj h).symm⟩

theorem run_extStream0 {s t : State} {w : Word} (hp : s.phase = .cFetch0)
    (h : run (.code (.extStream0 w) s) = .next t) : ∃ w' : Word, t = s.takeStream0 w' := by
  simp only [run, decode, decodeStream0, decodeStream] at h
  split at h
  · exact ⟨_, (Host.Outcome.next.inj h).symm⟩
  · simp only [exec, execExtStreamWord, hp] at h
    exact ⟨_, (Host.Outcome.next.inj h).symm⟩

theorem run_extStream {s t : State} {w : Word} (hp : s.phase = .cRefill)
    (h : run (.code (.extStream w) s) = .next t) : ∃ w' : Word, t = s.takeStream w' := by
  simp only [run, decode, decodeStream, exec, execExtStreamWord, hp] at h
  exact ⟨_, (Host.Outcome.next.inj h).symm⟩

/-- A turn of the sequencer: nothing where it does not run, the rule of its phase, or a word taken. -/
theorem run_seqMove {s t : State} (h : run s.seqMove = .next t) :
    (s.life ≠ .running ∧ t = s) ∨
    (∃ i : Instr, s.life = .running ∧ decodePhase s.variant s.phase.code = .ok i ∧ exec i s = .next t) ∨
    (∃ (w : Word) (rest : List Word), s.life = .running ∧ s.txf = w :: rest ∧
      ((s.phase = .cIdle ∧ s.variant = .vSimple ∧ ∃ w' : Word, t = State.takeSimple { s with txf := rest } w') ∨
        (s.phase = .cIdle ∧ s.variant = .vExt ∧
          ∃ wcount rcount : Half, t = State.takePrefix { s with txf := rest } wcount rcount) ∨
        (s.phase = .cFetch0 ∧ ∃ w' : Word, t = State.takeStream0 { s with txf := rest } w') ∨
        (s.phase = .cRefill ∧ ∃ w' : Word, t = State.takeStream { s with txf := rest } w'))) := by
  rcases seqMove_cases s with ⟨hl, hm⟩ | ⟨hl, hm⟩ | ⟨w, rest, hl, htxf, hw⟩
  · rw [hm] at h
    exact .inl ⟨hl, (Host.Outcome.next.inj h).symm⟩
  · rw [hm] at h
    simp only [run, decode] at h
    split at h
    · rename_i i hd
      exact .inr (.inl ⟨i, hl, hd, h⟩)
    · cases h
  · refine .inr (.inr ⟨w, rest, hl, htxf, ?_⟩)
    rcases hw with ⟨hp, hv, hm⟩ | ⟨hp, hv, hm⟩ | ⟨hp, _, hm⟩ | ⟨hp, _, hm⟩ <;> rw [hm] at h
    · exact .inl ⟨hp, hv, run_simple h⟩
    · exact .inr (.inl ⟨hp, hv, run_extPrefix h⟩)
    · exact .inr (.inr (.inl ⟨hp, run_extStream0 hp h⟩))
    · exact .inr (.inr (.inr ⟨hp, run_extStream hp h⟩))

theorem run_seqMove_keeps {s t : State} (hs : s.linkLegal = true) (h : run s.seqMove = .next t) :
    t.linkLegal = true := by
  rcases run_seqMove h with ⟨_, rfl⟩ | ⟨i, hl, hd, he⟩ | ⟨w, rest, hl, _, hw⟩
  · exact hs
  · have hr : RunsAt s s.phase := ⟨hs, hl, rfl⟩
    obtain rfl : ruleOf s.variant s.phase = i := by
      rw [decodePhase_code hr.has] at hd; exact Except.ok.inj hd
    exact exec_rule_keeps hr he
  · rcases hw with ⟨hp, _, w', rfl⟩ | ⟨hp, hv, wcount, rcount, rfl⟩ | ⟨hp, w', rfl⟩ | ⟨hp, w', rfl⟩
    · exact takeSimple_keeps (RunsAt.popped ⟨hs, hl, hp⟩ rest) w'
    · exact takePrefix_keeps (RunsAt.popped ⟨hs, hl, hp⟩ rest) hv wcount rcount
    · exact takeStream0_keeps (RunsAt.popped ⟨hs, hl, hp⟩ rest) w'
    · exact takeStream_keeps (RunsAt.popped ⟨hs, hl, hp⟩ rest) w'

theorem run_seqMove_frame {s t : State} (h : run s.seqMove = .next t) : SeqFrame s t := by
  rcases run_seqMove h with ⟨_, rfl⟩ | ⟨i, _, hd, he⟩ | ⟨w, rest, _, _, hw⟩
  · exact .refl _
  · exact exec_phaseRule_frame (decodePhase_isPhaseRule hd) he
  · rcases hw with ⟨_, _, w', rfl⟩ | ⟨_, _, wcount, rcount, rfl⟩ | ⟨_, w', rfl⟩ | ⟨_, w', rfl⟩
    · exact takeSimple_frame s rest w'
    · exact takePrefix_frame s rest wcount rcount
    · exact takeStream0_frame s rest w'
    · exact takeStream_frame s rest w'

/-! ### A step -/

/-- A step acts on the engine as the host context does, or is a turn of the sequencer: the target and its DMA controller
touch nothing of it. -/
theorem step_acts {s t : State} (h : step s = .next t) : HostActs s t ∨ run s.begin.seqMove = .next t := by
  rcases step_next h with ⟨_, h⟩ | ⟨_, h⟩ | ⟨_, h⟩ | ⟨_, h⟩
  · refine .inl (.trans ?_ (run_hostMove_acts h))
    exact context_acts rfl
  · exact .inr h
  · obtain ⟨ht, hfalls⟩ := run_targetMove_frame h
    refine .inl (.trans ?_ (context_acts (enginePart_of_target ht hfalls)))
    exact context_acts rfl
  · obtain ⟨ht, _, _, _, hfalls, _⟩ := run_dmaMove_frame h
    refine .inl (.trans ?_ (context_acts (enginePart_of_target ht hfalls)))
    exact context_acts rfl

/-- Settles O51: the host context acts on the engine by the lifecycle operations alone, and each of these and each rule
of the sequencer keeps the invariant. -/
theorem stepKeepsLinkLegal : Obligations.StepKeepsLinkLegal := by
  intro s t hs h
  obtain hacts | hseq := step_acts h
  · exact hacts.keeps hs
  · exact run_seqMove_keeps (s := s.begin) hs hseq

/-! ### The parameters and the drivers of strobe and reset -/

/-- What no act of the host context writes. -/
theorem HostActs.drivers {s t : State} (h : HostActs s t) :
    t.cfg = s.cfg ∧ dcOf t.pinsOe = dcOf s.pinsOe ∧ rstnOf t.pinsOe = rstnOf s.pinsOe := by
  induction h with
  | refl => exact ⟨rfl, rfl, rfl⟩
  | tail _ hact ih =>
    obtain ⟨hcfg, hdc, hrst⟩ := ih
    cases hact with
    | context h =>
      have hcfg' := congrArg State.cfg h
      have hdc' := congrArg (fun u => dcOf u.pinsOe) h
      have hrst' := congrArg (fun u => rstnOf u.pinsOe) h
      exact ⟨hcfg'.trans hcfg, hdc'.trans hdc, hrst'.trans hrst⟩
    | load | start | deinit => exact ⟨hcfg, hdc, hrst⟩
    | abort | stop => exact ⟨hcfg, by simpa using hdc, by simpa using hrst⟩

/-- Settles O57: neither an act of the host context nor a rule of the sequencer writes them. -/
theorem stepKeepsParameters : Obligations.StepKeepsParameters := by
  refine ⟨fun s t h => ?_, fun s hs => (s.linkLegal_iff.1 hs).1, parametersLegal_iff⟩
  obtain hacts | hseq := step_acts h
  · exact hacts.drivers
  · obtain ⟨ht, hdc, hrst⟩ := run_seqMove_frame hseq
    have hcfg : t.cfg = (s.begin.seqFrom t).cfg := congrArg State.cfg ht
    exact ⟨hcfg, hdc, hrst⟩

/-- Settles O58: each agent's turn has its frame. -/
theorem agentsTouchTheirOwn : Obligations.AgentsTouchTheirOwn := by
  intro s t h
  rcases step_next h with ⟨hm, h⟩ | ⟨hm, h⟩ | ⟨hm, h⟩ | ⟨hm, h⟩ <;> rw [hm]
  · exact ⟨nofun, nofun, nofun⟩
  · exact ⟨nofun, nofun, fun _ => (run_seqMove_frame h).1⟩
  · exact ⟨fun _ => (run_targetMove_frame h).1, nofun, nofun⟩
  · obtain ⟨ht, hwire⟩ := run_dmaMove_frame h
    obtain ⟨hresp, hinbox, hbits, hfalls, hdebug⟩ := hwire
    exact ⟨fun _ => ht, fun _ => ⟨hresp, hinbox, hbits, hfalls, hdebug⟩, nofun⟩

/-! ### The upper operations -/

/-- Settles O59: the effect of such an operation leaves the whole part of the Link Engine. -/
theorem upperOperationsLeaveLink : Obligations.UpperOperationsLeaveLink := by
  intro s t i hop hcode hend hrestart he
  have hu : isUpper i = true := by
    cases i
    case toSessionEnd => exact absurd rfl hend
    case toRestart => exact absurd rfl hrestart
    all_goals first | exact hop | simp [encode] at hcode
  have h := exec_upper_linkPart hu he
  simp only [State.linkPart, State.mk.injEq, eq_self, true_and, and_true] at h
  obtain ⟨_, hlink⟩ := h
  exact hlink

end Sys2Proof.Machine
end

section
/-! PROOFS. The four timers: what arming and asking one does, and which turns of which agent do either (O31). -/

namespace Sys2Proof.Machine

/-! ### One timer -/

/-- A timer that has answered true answers true. -/
theorem Timer.expires_of_expired {t : Timer} (h : t.expired = true) (free : Bool) : t.expires free = true := by
  simp [Timer.expires, h]

/-- What a timer has just answered it has answered since its last `arm`. -/
theorem Timer.asked_expired (t : Timer) (free : Bool) : (t.asked free).expired = t.expires free := rfl

/-! ### The four timers of a state -/

theorem State.timer_setTimer_eq_update (s : State) (i : TimerId) (t : Timer) :
    (s.setTimer i t).timer = Function.update s.timer i t := by
  funext j
  by_cases h : j = i
  · rw [h, State.timer_setTimer, Function.update_self]
  · rw [State.timer_setTimer_other s t h, Function.update_of_ne h]

theorem State.timer_armTimer (s : State) (i : TimerId) :
    (s.armTimer i).timer = Function.update s.timer i ((s.timer i).arm (TimerId.ceiling s.cfg i)) :=
  s.timer_setTimer_eq_update i _

theorem State.timer_askTimer (s : State) (i : TimerId) :
    (s.askTimer i).timer = Function.update s.timer i ((s.timer i).asked (Config.freeExpired i.index s.clock)) :=
  s.timer_setTimer_eq_update i _

/-- What arming a timer leaves on the timers, these and the parameters alone decide. -/
theorem timer_armTimer_congr {s t : State} (i : TimerId) (ht : t.timer = s.timer) (hc : t.cfg = s.cfg) :
    (t.armTimer i).timer = (s.armTimer i).timer := by
  rw [State.timer_armTimer, State.timer_armTimer, ht, hc]

/-- Asking a timer loses no answer of true. -/
theorem State.askTimer_keeps_expired (s : State) (i : TimerId) {j : TimerId} (h : (s.timer j).expired = true) :
    ((s.askTimer i).timer j).expired = true := by
  rw [State.timer_askTimer]
  by_cases hj : j = i
  · subst hj
    rw [Function.update_self, Timer.asked_expired, Timer.expires_of_expired h]
  · rwa [Function.update_of_ne hj]

/-! ### The host context -/

theorem State.teardown_timer (s : State) : s.teardown.timer = s.timer := by rw [s.teardown_frame]; rfl

theorem State.switch_timer (s : State) (v : Variant) : (s.switch v).timer = s.timer := by rw [s.switch_frame]; rfl

theorem State.linkTimeout_timer (s : State) : s.linkTimeout.timer = s.timer := by
  unfold State.linkTimeout
  split <;> rfl

/-- An operation leaves the timers where its effect does: a refusal asks and arms none. -/
theorem issue_timer {ok : Bool} {s t u : State} (h : issue ok s t = .next u) (ht : t.timer = s.timer) :
    u.timer = s.timer := by
  obtain ⟨_, rfl⟩ | ⟨_, rfl⟩ := issue_eq_next.1 h
  · exact ht
  · rfl

/-- No operation but the exchange arms or asks a timer when it is issued. -/
theorem exec_operation_timer {s t : State} {i : Instr} (hi : isOperation i = true) (hx : ∀ f : Frame, i ≠ .cpXchg f)
    (h : exec i s = .next t) : t.timer = s.timer := by
  cases i
  case cpXchg f => exact absurd rfl (hx f)
  case leSwitch v => exact issue_timer h (s.switch_timer v)
  case leAttach => exact issue_timer h s.teardown_timer
  case toSessionEnd => exact issue_timer h s.teardown_timer
  case toRestart => exact issue_timer h s.teardown_timer
  case fpClockInit => exact issue_timer h (by split <;> rfl)
  all_goals first | exact issue_timer h rfl | exact (Bool.false_ne_true hi).elim

/-- An exchange that is not refused arms TMO (41_command_protocol.md R189). -/
theorem exec_cpXchg_timer {s t : State} {f : Frame} (h : exec (.cpXchg f) s = .next t) :
    t.timer = s.timer ∨ t.timer = (s.armTimer .tmo).timer := by
  obtain ⟨_, rfl⟩ | ⟨_, rfl⟩ := issue_eq_next.1 h
  · refine .inr (timer_armTimer_congr (t := s.switch (variantOf f.kind)) .tmo (s.switch_timer _) ?_)
    rw [s.switch_frame]
  · exact .inl rfl

/-- The same of any operation: the timers stay, or it is an exchange that arms TMO. -/
theorem exec_operation_timer_cases {s t : State} {i : Instr} (hi : isOperation i = true) (h : exec i s = .next t) :
    t.timer = s.timer ∨ (∃ f : Frame, i = .cpXchg f) ∧ t.timer = (s.armTimer .tmo).timer := by
  by_cases hx : ∃ f : Frame, i = .cpXchg f
  · obtain ⟨f, rfl⟩ := hx
    exact (exec_cpXchg_timer h).imp id fun ht => ⟨⟨f, rfl⟩, ht⟩
  · exact .inl (exec_operation_timer hi (fun f hf => hx ⟨f, hf⟩) h)

/-- The timers as they were, or with one of them asked. -/
def State.asksOnly (s t : State) : Prop := t.timer = s.timer ∨ ∃ i : TimerId, t.timer = (s.askTimer i).timer

theorem State.asksOnly_keeps_expired {s t : State} (h : s.asksOnly t) {j : TimerId} (hj : (s.timer j).expired = true) :
    (t.timer j).expired = true := by
  obtain ht | ⟨i, ht⟩ := h <;> rw [ht]
  · exact hj
  · exact s.askTimer_keeps_expired i hj

theorem stepSend_asksOnly (words : List Word) (rest : List Task) (s : State) : s.asksOnly (stepSend words rest s) := by
  unfold stepSend
  split
  · exact .inl rfl
  · split
    · split
      · exact .inr ⟨.tmo, State.linkTimeout_timer _⟩
      · exact .inr ⟨.tmo, rfl⟩
    · exact .inl rfl

theorem stepAwait_asksOnly (f : Frame) (rest : List Task) (s : State) : s.asksOnly (stepAwait f rest s) := by
  unfold stepAwait
  repeat' split
  all_goals first | exact .inl rfl | exact .inr ⟨.tmo, rfl⟩ | exact .inr ⟨.tmo, State.linkTimeout_timer _⟩

/-- A point of an operation passed, other than an `arm`. -/
theorem stepTask_asksOnly {k : Task} (hk : ∀ i : TimerId, k ≠ .arm i) (rest : List Task) (s : State) :
    s.asksOnly (stepTask k rest s) := by
  cases k
  case arm i => exact absurd rfl (hk i)
  case send words => exact stepSend_asksOnly words rest s
  case await f => exact stepAwait_asksOnly f rest s
  case eraseTest =>
    simp only [stepTask, stepEraseTest]
    split
    · exact .inl rfl
    · exact .inr ⟨.tmoErase, by split <;> rfl⟩
  case progTest =>
    simp only [stepTask, stepProgTest]
    split
    · exact .inl rfl
    · exact .inr ⟨.tmoProg, by split <;> rfl⟩
  case clockTest =>
    simp only [stepTask, stepClockTest]
    split
    · exact .inl rfl
    · exact .inr ⟨.tmoLink2, by split <;> rfl⟩
  all_goals refine .inl ?_
  case waitDone | identify | readSeg | readByte | readLoop | appendBlock =>
    simp only [stepTask, stepIdentify, stepReadSeg, stepReadByte, stepReadLoop, stepAppendBlock]
    split <;> rfl
  case writeLoop =>
    simp only [stepTask, stepWriteLoop]
    split
    · split
      · rfl
      · split <;> rfl
    · rfl
  all_goals rfl

/-- Where the host context, whose turn it is, arms a timer: at an `arm` of the operation in progress or, for TMO, at the
beginning of an exchange, which an operation calls or the host requests. -/
def State.armsAt (s : State) (i : TimerId) : Prop :=
  (∃ rest : List Task, s.tasks = .arm i :: rest) ∨
    (i = .tmo ∧ ∃ (f : Frame) (rest : List Task), s.tasks = .op (.xchg f) :: rest) ∨
    (i = .tmo ∧ ∃ (r : Request) (rs : List Request) (f : Frame), s.tasks = [] ∧ s.req = r :: rs ∧
      decode s.cfg (.hop r.hop r.args) = .ok (.cpXchg f))

/-- A turn of the host context. -/
theorem run_hostMove_timer {s t : State} (h : run s.hostMove = .next t) :
    s.asksOnly t ∨ ∃ i : TimerId, s.armsAt i ∧ t.timer = (s.armTimer i).timer := by
  rcases run_hostMove h with ⟨o, rest, htask, he⟩ | ⟨_, _, _, _, _, _, rfl⟩ | ⟨k, rest, htask, rfl⟩ |
    ⟨r, rs, i, htask, hreq, hd, he⟩ | ⟨_, _, _, _, rfl⟩ | ⟨_, _, rfl⟩
  · obtain ht | ⟨⟨f, ho⟩, ht⟩ := exec_operation_timer_cases o.instr_isOperation he
    · exact .inl (.inl ht)
    · obtain rfl : o = .xchg f := by cases o <;> cases ho; rfl
      exact .inr ⟨.tmo, .inr (.inl ⟨rfl, f, rest, htask⟩), ht⟩
  · exact .inl (.inl rfl)
  · by_cases hk : ∃ i : TimerId, k = .arm i
    · obtain ⟨i, rfl⟩ := hk
      exact .inr ⟨i, .inl ⟨rest, htask⟩, rfl⟩
    · exact .inl (stepTask_asksOnly (fun i hi => hk ⟨i, hi⟩) rest s)
  · obtain ht | ⟨⟨f, rfl⟩, ht⟩ := exec_operation_timer_cases (decodeHop_isOperation hd) he
    · exact .inl (.inl ht)
    · exact .inr ⟨.tmo, .inr (.inr ⟨rfl, r, rs, f, htask, hreq, hd⟩), ht⟩
  · exact .inl (.inl rfl)
  · exact .inl (.inl rfl)

/-! ### A step -/

/-- A step asks a timer, arms one in the host context's turn, or leaves all four: the sequencer, the target and its DMA
controller touch none. -/
theorem step_timer {s t : State} (h : step s = .next t) :
    s.begin.asksOnly t ∨ (s.mover = .host ∧ ∃ i : TimerId, s.armsAt i ∧ t.timer = (s.armTimer i).timer) := by
  rcases step_next h with ⟨hm, h⟩ | ⟨_, h⟩ | ⟨_, h⟩ | ⟨_, h⟩
  · obtain ht | ⟨i, hat, ht⟩ := run_hostMove_timer h
    · exact .inl ht
    · exact .inr ⟨hm, i, hat, ht.trans (timer_armTimer_congr (s := s) (t := s.begin) i rfl rfl)⟩
  · obtain ⟨hframe, _⟩ := run_seqMove_frame h
    have ht := congrArg State.timer hframe
    exact .inl (.inl ht)
  · obtain ⟨hframe, _⟩ := run_targetMove_frame h
    have ht := congrArg State.timer hframe
    exact .inl (.inl ht)
  · obtain ⟨hframe, _⟩ := run_dmaMove_frame h
    have ht := congrArg State.timer hframe
    exact .inl (.inl ht)

/-- Settles O31: the law of one timer, that each is written alone, and what a step can do to the four. -/
theorem timerLaw : Obligations.TimerLaw := by
  intro s i j c
  refine ⟨?asked, fun h => Timer.expires_of_expired h _, ?armed, ?ceiling, ?others, ?step⟩
  case asked =>
    intro h
    have hasked : ((s.askTimer i).timer i).expired = true := by
      rw [State.timer_askTimer, Function.update_self]
      exact h
    exact Timer.expires_of_expired (t := State.timer { s.askTimer i with clock := c } i) hasked _
  case armed => rw [State.timer_armTimer, Function.update_self]; rfl
  case ceiling => rw [State.timer_armTimer, Function.update_self]; rfl
  case others =>
    intro hij
    rw [State.timer_armTimer, State.timer_askTimer, Function.update_of_ne hij.symm, Function.update_of_ne hij.symm]
    exact ⟨rfl, rfl⟩
  case step =>
    intro t h hexp
    obtain hask | ⟨hm, k, hat, ht⟩ := step_timer h
    · exact .inl (State.asksOnly_keeps_expired (s := s.begin) hask hexp)
    · rw [ht, State.timer_armTimer]
      by_cases hk : i = k
      · subst hk
        rw [Function.update_self]
        exact .inr ⟨rfl, hm, hat⟩
      · rw [Function.update_of_ne hk]
        exact .inl hexp

end Sys2Proof.Machine
end

section
/-! PROOFS. The sequencer always has a step, and where it may stay at its phase (O53). -/

namespace Sys2Proof.Machine

/-- Where the sequencer may stay at its phase (10_state.md R33, 40_link_engine.md R142, R148, R149, R169): stopped, done,
in a hold of the attach program, or waiting for one of the two queues. -/
def State.mayStay (s : State) : Prop :=
  s.life ≠ .running ∨ s.phase = .atDone ∨ s.phase = .atHold ∨ s.phase = .atSettle ∨
    (s.txf = [] ∧ (s.phase = .cIdle ∨ s.phase = .cFetch0 ∨ s.phase = .cRefill)) ∨
    (s.cfg.rxfDepth ≤ s.rxf.length ∧ s.phase = .cPush)

/-! ### The phase a rule leads to -/

theorem takeSimple_leaves (s : State) (w : Word) : (s.takeSimple w).phase ≠ .cIdle := by
  unfold State.takeSimple
  split <;> exact nofun

theorem takeStream0_leaves (s : State) (w : Word) : (s.takeStream0 w).phase ≠ .cFetch0 := by
  unfold State.takeStream0
  split <;> exact nofun

theorem nextByte_leaves (s : State) (w : Half) (o : BitVec 3) : (s.nextByte w o).phase ≠ .cTxlo := by
  unfold State.nextByte
  split
  · exact nofun
  · dsimp only
    split <;> exact nofun

/-- A transmitted bit ends in another phase (40_link_engine.md R157). -/
theorem execCTxlo_leaves {s t : State} (h : exec .cTxlo s = .next t) : t.phase ≠ .cTxlo := by
  obtain rfl := Host.Outcome.next.inj h
  dsimp only
  split
  · exact nofun
  · split
    · split
      · exact nofun
      · exact nextByte_leaves _ _ _
    · exact nextByte_leaves _ _ _
    · exact nextByte_leaves _ _ _

/-- A rule whose phase takes a word stays only where none is there. -/
theorem mayStay_of_fetch {s : State} {p : Phase} {taken : Word → List Word → State} (hs : s.phase = p)
    (hp : p = .cIdle ∨ p = .cFetch0 ∨ p = .cRefill) (hleaves : ∀ (w : Word) (rest : List Word), (taken w rest).phase ≠ p)
    (h : (match s.txf with | [] => s | w :: rest => taken w rest).phase = p) : s.mayStay := by
  cases htxf : s.txf with
  | nil => exact .inr (.inr (.inr (.inr (.inl ⟨htxf, hs ▸ hp⟩))))
  | cons w rest => rw [htxf] at h; exact absurd h (hleaves w rest)

/-- The rule of a phase leads to another one, but where the sequencer may stay. -/
theorem exec_rule_stays {s t : State} {p : Phase} (h : RunsAt s p) (he : exec (ruleOf s.variant p) s = .next t)
    (hp : t.phase = p) : s.mayStay := by
  cases p
  case pStopped => have := h.has; cases hv : s.variant <;> rw [hv] at this <;> cases this
  case atDone => exact .inr (.inl h.phase)
  case atHold => exact .inr (.inr (.inl h.phase))
  case atSettle => exact .inr (.inr (.inr (.inl h.phase)))
  case atLohold | cDirin | cRxlo =>
    obtain rfl := Host.Outcome.next.inj he
    dsimp only at hp
    split at hp <;> cases hp
  case cTxlo => exact absurd hp (execCTxlo_leaves he)
  case cPush =>
    obtain rfl := Host.Outcome.next.inj he
    by_cases hfull : s.rxfFull = true
    · exact .inr (.inr (.inr (.inr (.inr ⟨of_decide_eq_true hfull, h.phase⟩))))
    · rw [if_neg hfull] at hp
      dsimp only at hp
      split at hp <;> cases hp
  case cIdle =>
    by_cases hv : s.variant = .vSimple
    · rw [ruleOf, if_pos hv] at he
      obtain rfl := Host.Outcome.next.inj he
      exact mayStay_of_fetch h.phase (.inl rfl) (fun _ _ => takeSimple_leaves _ _) hp
    · rw [ruleOf, if_neg hv] at he
      obtain rfl := Host.Outcome.next.inj he
      exact mayStay_of_fetch h.phase (.inl rfl) (fun _ _ => Phase.noConfusion) hp
  case cFetch0 =>
    obtain rfl := Host.Outcome.next.inj he
    exact mayStay_of_fetch h.phase (.inr (.inl rfl)) (fun _ _ => takeStream0_leaves _ _) hp
  case cRefill =>
    obtain rfl := Host.Outcome.next.inj he
    exact mayStay_of_fetch h.phase (.inr (.inr rfl)) (fun _ _ => Phase.noConfusion) hp
  all_goals
    obtain rfl := Host.Outcome.next.inj he
    cases hp

/-! ### A turn of the sequencer -/

/-- Every phase rule answers a next state. -/
theorem exec_rule_next (v : Variant) (p : Phase) (s : State) : ∃ t : State, exec (ruleOf v p) s = .next t := by
  cases p
  case cIdle => rw [ruleOf]; split <;> exact ⟨_, rfl⟩
  all_goals exact ⟨_, rfl⟩

/-- With the invariant the sequencer's turn neither faults nor is refused: the variant has the phase. -/
theorem run_seqMove_next {s : State} (hs : s.linkLegal = true) : ∃ t : State, run s.seqMove = .next t := by
  rcases seqMove_cases s with ⟨_, hm⟩ | ⟨hl, hm⟩ | ⟨w, rest, _, _, hw⟩
  · rw [hm]
    exact ⟨s, rfl⟩
  · have hd := decodePhase_code (RunsAt.has ⟨hs, hl, rfl⟩)
    rw [hm, run_code_ok (s := s) (c := .phase _ _) hd]
    exact exec_rule_next _ _ _
  · rcases hw with ⟨_, _, hm⟩ | ⟨_, _, hm⟩ | ⟨_, _, hm⟩ | ⟨_, _, hm⟩ <;> rw [hm, run_code_ok rfl]
    · unfold decodeSimple; split <;> exact ⟨_, rfl⟩
    · exact ⟨_, rfl⟩
    · unfold decodeStream0; split <;> exact ⟨_, rfl⟩
    · exact ⟨_, rfl⟩

/-- A turn that leaves the phase as it was was taken where the sequencer may stay. -/
theorem run_seqMove_stays {s t : State} (hs : s.linkLegal = true) (h : run s.seqMove = .next t)
    (hp : t.phase = s.phase) : s.mayStay := by
  rcases run_seqMove h with ⟨hl, _⟩ | ⟨i, hl, hd, he⟩ | ⟨w, rest, hl, _, hw⟩
  · exact .inl hl
  · have hr : RunsAt s s.phase := ⟨hs, hl, rfl⟩
    obtain rfl : ruleOf s.variant s.phase = i := by
      rw [decodePhase_code hr.has] at hd; exact Except.ok.inj hd
    exact exec_rule_stays hr he hp
  · rcases hw with ⟨hq, _, w', rfl⟩ | ⟨hq, _, _, _, rfl⟩ | ⟨hq, w', rfl⟩ | ⟨hq, _, rfl⟩
    · exact absurd (hp.trans hq) (takeSimple_leaves _ w')
    · cases hp.trans hq
    · exact absurd (hp.trans hq) (takeStream0_leaves _ w')
    · cases hp.trans hq

/-- Settles O53: the variant has the phase, and each rule but those of the holds leads to another. -/
theorem sequencerNeverStuck : Obligations.SequencerNeverStuck := by
  intro s hs hm
  obtain ⟨t, ht⟩ := run_seqMove_next (s := s.begin) hs
  exact ⟨t, (step_sequencer hm).trans ht, run_seqMove_stays (s := s.begin) hs ht⟩

end Sys2Proof.Machine
end

section
/-! PROOFS. Power-on (O52, O60) and codes written out from the spec (O3). -/

namespace Sys2Proof.Machine

/-- Settles O52: a stopped engine with its pins at rest, empty queues and memories, and a session torn down. -/
theorem resetLegal : Obligations.ResetLegal := by
  obtain ⟨hxdata, hflash⟩ := Target.atPowerOn_wf
  refine ⟨linkLegal_resting (by decide) rfl (.inl rfl) rfl, by decide, rfl, rfl, ?memories, rfl⟩
  case memories => exact Bool.and_eq_true_iff.2 ⟨hxdata, hflash⟩

/-- Settles O60: each field of the power-on state as 10_state.md R49 gives it. -/
theorem resetValues : Obligations.ResetValues := by
  unfold Obligations.ResetValues
  decide

/-- Settles O3: each code in its format, under the default parameters. -/
theorem decodedWords : Obligations.DecodedWords := by
  refine ⟨?simple, ?null, ?extPrefix, ?stream, ?debug, ?config, ?response, ?phase, ?hop⟩
  all_goals rfl

end Sys2Proof.Machine
end

section
/-! PROOFS. What every operation requires, whatever else it does (O15). -/

namespace Sys2Proof.Machine

/-- An operation has its effect where its requirement holds, and is refused elsewhere; the requirement asks for an owner
of every operation but TO.SESSION_START, for an identified chip of those that touch flash, and for a variant of LE.SWITCH
(10_state.md R35, 43_flash_program.md R234, 40_link_engine.md R138). -/
theorem exec_operation_requires {i : Instr} (hi : isOperation i = true) (s : State) :
    ∃ (ok : Bool) (t : State), exec i s = issue ok s t ∧ (ok = true →
      (i ≠ .toSessionStart → s.owner = .held) ∧ (isTransfer i = true → s.chipState = .identified) ∧
        i ≠ .leSwitch .vNone) := by
  cases i
  case toSessionStart => exact ⟨_, _, rfl, fun _ => ⟨fun h => absurd rfl h, nofun, nofun⟩⟩
  case leSwitch v =>
    refine ⟨_, _, rfl, fun hok => ?_⟩
    simp only [Bool.and_eq_true, State.held_eq_true, bne_iff_ne] at hok
    obtain ⟨hheld, hv⟩ := hok
    exact ⟨fun _ => hheld, nofun, fun h => hv (Instr.leSwitch.inj h)⟩
  case fpErase | fpEnableDma | fpConfigDma | fpBurstLoad | fpProgram | fpClockInit | fpWriteBlock | frRead | toWriteAll |
      toReadAll =>
    refine ⟨_, _, rfl, fun hok => ?_⟩
    simp only [Bool.and_eq_true, State.ready_eq_true, State.passReady_eq_true] at hok
    exact ⟨fun _ => by tauto, fun _ => by tauto, nofun⟩
  case leLoad | leStart | leStop | leAbort | leDeinit | leAttach | cpXchg | alWrite | alRead | alWriteBlock |
      alReadBlockBanked | idLookup | idRead | toRestart | toSessionEnd =>
    refine ⟨_, _, rfl, fun hok => ?_⟩
    simp only [Bool.and_eq_true, State.held_eq_true] at hok
    exact ⟨fun _ => by tauto, nofun, nofun⟩
  all_goals cases hi

/-- Settles O15: none of the three requirements holds. -/
theorem generalRefusals : Obligations.GeneralRefusals := by
  intro s i hi hno
  obtain ⟨ok, t, hexec, hreq⟩ := exec_operation_requires hi s
  rw [hexec]
  cases ok with
  | false => rfl
  | true =>
    obtain ⟨howner, hchip, hvariant⟩ := hreq rfl
    obtain ⟨hfree, hi'⟩ | ⟨hchip', hi'⟩ | hi' := hno
    · rw [howner hi'] at hfree; cases hfree
    · exact absurd (hchip hi') hchip'
    · exact absurd hi' hvariant

end Sys2Proof.Machine
end

section
/-! PROOFS. What the block reads (O16) and the words its program pops (O19). -/

namespace Sys2Proof.Machine

/-! ### The data line (10_state.md R23) -/

theorem State.ddIn_driven {s : State} (contract : Bool) (h : s.ddOe = true) : s.ddIn contract = s.ddOut := by
  rw [State.ddIn, if_pos h]

theorem State.ddIn_level {s : State} {b : Bool} {ds : List Drive} (contract : Bool) (h : s.ddOe = false)
    (hd : s.dd = .level b :: ds) : s.ddIn contract = b := by
  simp only [State.ddIn, h, hd, Bool.false_eq_true, if_false]

theorem State.ddIn_released {s : State} {ds : List Drive} (contract : Bool) (h : s.ddOe = false)
    (hd : s.dd = .released :: ds) : s.ddIn contract = true := by
  simp only [State.ddIn, h, hd, Bool.false_eq_true, if_false]

/-! ### LE_BUSY (10_state.md R31) -/

theorem State.leBusy_command {s : State} (hv : s.variant = .vSimple ∨ s.variant = .vExt) :
    s.leBusy = true ↔ s.life = .running ∧ (s.phase ≠ .cIdle ∨ s.txf ≠ []) := by
  obtain hv | hv := hv <;> simp [State.leBusy, hv]

theorem State.leBusy_attach {s : State} (hv : s.variant = .vAttach) :
    s.leBusy = true ↔ s.life = .running ∧ s.leDone = false := by
  simp [State.leBusy, hv]

/-- Settles O16: the rule of each thing read. -/
theorem whatIsRead : Obligations.WhatIsRead := by
  intro s contract b ds
  exact ⟨Reg.read_written _ _, State.rdOsrb_val, State.rdTxseg_val, State.rdBitcnt_val, State.rdWcnt_val,
    Reg.read_written _ _, Reg.read_written _ _, Reg.read_written _ _, State.rdHoldcnt_val, State.rdFalls_val,
    State.ddIn_driven contract, State.ddIn_level contract, State.ddIn_released contract, State.leBusy_command,
    State.leBusy_attach⟩

/-! ### Words popped (40_link_engine.md R150 to R152, R158) -/

/-- A phase that takes a word holds while TXF is empty. -/
theorem exec_fetch_empty {s : State} (h : s.txf = []) :
    exec .cIdleSimple s = .next s ∧ exec .cIdleExt s = .next s ∧ exec .cFetch0 s = .next s ∧
      exec .cRefill s = .next s := by
  simp only [exec, execCIdleSimple, execCIdleExt, execCFetch0, execCRefill, h, and_self]

/-- Where a word is there, the phase takes it. -/
theorem exec_fetch_word {s : State} {w : Word} {rest : List Word} (h : s.txf = w :: rest) :
    exec .cIdleSimple s = .next ({ s with txf := rest }.takeSimple w) ∧
      exec .cIdleExt s = .next ({ s with txf := rest }.takePrefix (w.extractLsb' 16 16) (w.extractLsb' 0 16)) ∧
      exec .cFetch0 s = .next ({ s with txf := rest }.takeStream0 w) ∧
      exec .cRefill s = .next ({ s with txf := rest }.takeStream w) := by
  simp only [exec, execCIdleSimple, execCIdleExt, execCFetch0, execCRefill, h, and_self]

theorem takeSimple_null {s : State} {w : Word} (h : wordByte w 0 = s.cfg.opNull) :
    s.takeSimple w = { s with
      osr := Reg.of w, opc := Reg.of s.cfg.opNull, wcnt := Reg.of 0#16, rcnt := Reg.of 1#16, phase := .cDirin } :=
  if_pos h

theorem takeSimple_command {s : State} {w : Word} (h : wordByte w 0 ≠ s.cfg.opNull) :
    s.takeSimple w = { s with
      osr := Reg.of w, opc := Reg.of (wordByte w 0), wcnt := Reg.of 0#16, rcnt := Reg.of 1#16
      txseg := Reg.of .segOp, bitcnt := Reg.of 6#4, phase := .cDirout } :=
  if_neg h

theorem takeStream0_null {s : State} {w : Word} (h : wordByte w 0 = s.cfg.opNull) :
    s.takeStream0 w = { s with osr := Reg.of w, opc := Reg.of s.cfg.opNull, phase := .cDirin } :=
  if_pos h

theorem takeStream0_command {s : State} {w : Word} (h : wordByte w 0 ≠ s.cfg.opNull) :
    s.takeStream0 w = { s with
      osr := Reg.of w, opc := Reg.of (wordByte w 0), txseg := Reg.of .segOp, bitcnt := Reg.of 8#4
      phase := .cDirout } :=
  if_neg h

/-- Settles O19: each phase holds or takes its word, and the opcode byte tells the null frame. -/
theorem fetchPhases : Obligations.FetchPhases := by
  intro s
  refine ⟨exec_fetch_empty, fun w rest htxf => ?_⟩
  obtain ⟨hsimple, hext, hfetch, hrefill⟩ := exec_fetch_word htxf
  rw [hsimple, hext, hfetch, hrefill]
  refine ⟨fun hnull => ?null, fun hcommand => ?command, rfl, rfl⟩
  case null =>
    exact ⟨congrArg Host.Outcome.next (takeSimple_null hnull), congrArg Host.Outcome.next (takeStream0_null hnull)⟩
  case command =>
    exact ⟨congrArg Host.Outcome.next (takeSimple_command hcommand),
      congrArg Host.Outcome.next (takeStream0_command hcommand)⟩

end Sys2Proof.Machine
end

section
/-! PROOFS. The points at which `SEND` and `RECV` of an exchange push, wait, return and time out (O29, O30). -/

namespace Sys2Proof.Machine

/-! ### The timeout of an exchange -/

/-- Where an engine that runs is owned, a timeout is LE.ABORT and then LinkTimeout (41_command_protocol.md R189,
60_exceptions.md R291, R300), and leaves the pins, the queues, the engine and the pipeline so. -/
theorem linkTimeout_running {s : State} (ho : s.owner = .held) (hl : s.life = .running) :
    ∃ a : State, exec .leAbort s = .next a ∧ s.linkTimeout = a.raise .linkTimeout ∧
      s.linkTimeout.result = .failed .linkTimeout ∧ s.linkTimeout.err = 1#3 ∧
      s.linkTimeout.fpState = (if s.fpState = .done then .done else .failed) ∧ s.linkTimeout.tasks = [] ∧
      s.linkTimeout.txf = [] ∧ s.linkTimeout.rxf = [] ∧ s.linkTimeout.dcOut = false ∧ s.linkTimeout.ddOe = false ∧
      s.linkTimeout.ddOut = s.ddOut ∧ s.linkTimeout.rstnOut = (s.variant == .vAttach || s.rstnOut) ∧
      s.linkTimeout.phase = (if s.variant = .vAttach then .atDone else .cIdle) ∧ s.linkTimeout.life = .running ∧
      s.linkTimeout.variant = s.variant ∧ s.linkTimeout.owner = .held := by
  have habort : exec .leAbort s = .next (s.abort.ret .unit) :=
    issue_eq_next.2 (.inl ⟨by simp [State.held, ho, hl], rfl⟩)
  have hraise : s.linkTimeout = s.abort.raise .linkTimeout := by rw [State.linkTimeout, if_pos hl]
  obtain ⟨hdc, hoe, hdd, hrst⟩ := s.abort_pins
  refine ⟨_, habort, hraise, ?_⟩
  rw [hraise]
  exact ⟨rfl, rfl, rfl, rfl, rfl, rfl, hdc, hoe, hdd, hrst, rfl, hl, rfl, ho⟩

/-- Where the engine does not run, a timeout is LinkTimeout alone (notes/assumptions/25.md). -/
theorem linkTimeout_stopped {s : State} (hl : s.life ≠ .running) : s.linkTimeout = s.raise .linkTimeout := by
  rw [State.linkTimeout, if_neg hl]

/-! ### SEND (41_command_protocol.md R184) -/

section Send
variable {s : State} {w : Word} {more : List Word} {rest : List Task}

theorem stepSend_pushes (h : s.txf.length < s.cfg.txfDepth) :
    stepSend (w :: more) rest s =
      { s with txf := s.txf ++ [w], tasks := if more = [] then rest else .send more :: rest } := by
  simp [stepSend, State.txfFull, Nat.not_le.2 h]

theorem stepSend_waits (h : s.cfg.txfDepth ≤ s.txf.length) (he : s.expired .tmo = false) :
    stepSend (w :: more) rest s = s.askTimer .tmo := by
  simp [stepSend, State.txfFull, h, he]

theorem stepSend_times_out (h : s.cfg.txfDepth ≤ s.txf.length) (he : s.expired .tmo = true) :
    stepSend (w :: more) rest s = (s.askTimer .tmo).linkTimeout := by
  simp [stepSend, State.txfFull, h, he]

end Send

/-- Settles O29: a push, a wait or a timeout. -/
theorem sendStep : Obligations.SendStep := by
  intro s w more rest
  refine ⟨rfl, stepSend_pushes, stepSend_waits, fun hfull he ho hl => ?_⟩
  obtain ⟨a, habort, hfields⟩ := linkTimeout_running (s := s.askTimer .tmo) ho hl
  exact ⟨a, _, habort, stepSend_times_out hfull he, hfields⟩

/-! ### RECV (41_command_protocol.md R185, R186, R190, R191) -/

/-- What the wait of an exchange lacks: the end of a frame without response, words of the response, or a response that
is ready. -/
def State.lacksResponse (s : State) (f : Frame) : Prop :=
  (f.rcount = 0 ∧ s.leBusy = true) ∨ (0 < f.rcount ∧ s.ws.length < f.rcount) ∨
    (∃ (r : Resp) (rs : List Resp), 0 < f.rcount ∧ s.ws = r :: rs ∧ s.ws.length = f.rcount ∧ r.nr = true)

section Receive
variable {s : State} {f : Frame} {rest : List Task} {r : Resp} {rs : List Resp}

theorem stepAwait_silent (h : f.rcount = 0) (hb : s.leBusy = false) :
    stepAwait f rest s = { s with tasks := rest, result := .bytes [] } := by
  simp [stepAwait, h, hb]

/-- With every word there, the first one decides: the response is returned, or there is no time left, or a null frame
is sent. -/
theorem stepAwait_whole (h : 0 < f.rcount) (hw : s.ws = r :: rs) (hlen : s.ws.length = f.rcount) :
    stepAwait f rest s =
      if r.nr = false then { s with tasks := rest, result := .bytes (respData s.ws), ws := [] }
      else if s.expired .tmo = true then (s.askTimer .tmo).linkTimeout
      else { s.askTimer .tmo with
        ws := [], tasks := .send (nullWords s.cfg f.kind f.rcount) :: .await f :: rest } := by
  have hfirst : firstNr s.ws = r.nr := by rw [hw]; rfl
  simp only [stepAwait, Nat.ne_of_gt h, Nat.lt_irrefl, hlen, hfirst, if_false, Bool.not_eq_true']

theorem stepAwait_waits (h : (f.rcount = 0 ∧ s.leBusy = true) ∨ s.ws.length < f.rcount) (he : s.expired .tmo = false) :
    stepAwait f rest s = s.askTimer .tmo := by
  obtain ⟨h0, hb⟩ | hlt := h
  · simp [stepAwait, h0, hb, he]
  · simp [stepAwait, Nat.ne_of_gt (Nat.zero_lt_of_lt hlt), hlt, he]

theorem stepAwait_times_out (h : s.lacksResponse f) (he : s.expired .tmo = true) :
    stepAwait f rest s = (s.askTimer .tmo).linkTimeout := by
  obtain ⟨h0, hb⟩ | ⟨hpos, hlt⟩ | ⟨r, rs, hpos, hw, hlen, hnr⟩ := h
  · simp [stepAwait, h0, hb, he]
  · simp [stepAwait, Nat.ne_of_gt hpos, hlt, he]
  · rw [stepAwait_whole hpos hw hlen, if_neg (by simp [hnr]), if_pos he]

end Receive

/-- The null frame in TXF: the null opcode and zeros, in an extended frame after the word of its counts (30_encoding.md
R99, R102). -/
theorem nullWords_eq (cfg : Config) (kind : Kind) (n : Nat) :
    nullWords cfg kind n = match kind with
      | .simple => [cfg.opNull ++ 0#24]
      | .ext => [0#16 ++ BitVec.ofNat 16 n, cfg.opNull ++ 0#24] := by
  have hzeros : word4 cfg.opNull 0#8 0#8 0#8 = cfg.opNull ++ 0#24 := by
    rw [word4, BitVec.append_assoc, BitVec.append_assoc]; rfl
  cases kind
  · exact congrArg (fun w => [w]) hzeros
  · exact congrArg (fun w => [0#16 ++ BitVec.ofNat 16 n, w]) hzeros

/-- Settles O30: a return, a retry, a wait or a timeout. -/
theorem receiveStep : Obligations.ReceiveStep := by
  intro s f rest
  refine ⟨stepAwait_silent, fun r rs hpos hw hlen hnr => ?ready, fun r rs hpos hw hlen hnr he => ?retry,
    stepAwait_waits, fun hlacks he => ⟨fun hl => ?stopped, fun ho hl => ?running⟩⟩
  case ready => exact (stepAwait_whole hpos hw hlen).trans (if_pos hnr)
  case retry =>
    refine (stepAwait_whole hpos hw hlen).trans ?_
    rw [if_neg (by simp [hnr]), if_neg (by simp [he]), nullWords_eq]
    rfl
  case stopped => exact (stepAwait_times_out hlacks he).trans (linkTimeout_stopped hl)
  case running =>
    obtain ⟨a, habort, hfields⟩ := linkTimeout_running (s := s.askTimer .tmo) ho hl
    exact ⟨a, _, habort, stepAwait_times_out hlacks he, hfields⟩

end Sys2Proof.Machine
end

section
/-! PROOFS. The commands of a target: what each leaves of it (O47), and the store in each of its cases (O46). -/

namespace Sys2Proof.Machine

/-! ### The execution of a command -/

theorem State.command_inDebug {s : State} (h : s.target.inDebug = true) (effect : Target → Target) :
    s.command effect = { s with target := effect s.target } := by
  rw [State.command, if_pos h]

theorem State.command_outOfStep {s : State} (h : s.target.inDebug = false) (effect : Target → Target) :
    s.command effect = { s with target := s.target.unknownCommand s.clock } := by
  simp only [State.command, h, Bool.false_eq_true, if_false]

/-- Every command of the table completes, by an effect on the target (20_memory.md R80). -/
theorem exec_command_eq {i : Instr} (hi : isCommand i = true) (s : State) :
    ∃ effect : Target → Target, exec i s = .next (s.command effect) := by
  cases i
  case chipErase | wrConfig | readStatus | debugInstr1 | debugInstr2 | debugInstr3 | tMovDptr | tMovA | tMovxSt |
      tMovxLd | tIncDptr | getChipId | burstWrite => exact ⟨_, rfl⟩
  all_goals cases hi

/-- On a target in debug mode a command ends with its effect. -/
theorem exec_command_inDebug {s : State} {i : Instr} {effect : Target → Target} {u : Target}
    (h : s.target.inDebug = true) (he : exec i s = .next (s.command effect)) (hu : effect s.target = u) :
    exec i s = .next { s with target := u } := by
  rw [he, State.command_inDebug h, hu]

/-! ### The bytes of a burst -/

/-- An armed and enabled channel A takes the bytes delivered (20_memory.md R69). -/
theorem Target.delivered_armed {t : Target} {cfg : Config} (data : List Byte) (hA : t.armedA = true)
    (hc : t.config = cfg.configEnableDma) :
    t.delivered cfg data =
      { t with dbg := t.dbg ++ data, pending := if .chA ∈ t.pending then t.pending else t.pending ++ [.chA] } := by
  obtain ⟨_, _, hd⟩ | ⟨hno, _⟩ := t.delivered_cases cfg data
  · exact hd
  · exact absurd hno (by simp [hA, hc])

/-- Where channel A is not known to take them, target RAM is lost sight of (notes/assumptions/28.md). -/
theorem Target.delivered_unarmed {t : Target} {cfg : Config} (data : List Byte)
    (hno : t.armedA = false ∨ t.config ≠ cfg.configEnableDma) : t.delivered cfg data = { t with xdata := [] } := by
  obtain ⟨hA, hc, _⟩ | ⟨_, hd⟩ := t.delivered_cases cfg data
  · exact absurd hno (by simp [hA, hc])
  · exact hd

theorem exec_burstWrite_armed {s : State} (data : List Byte) (h : s.target.inDebug = true)
    (hA : s.target.armedA = true) (hc : s.target.config = s.cfg.configEnableDma) :
    exec (.burstWrite data) s = .next { s with
      target := { s.target with
        dbg := s.target.dbg ++ data
        pending := if .chA ∈ s.target.pending then s.target.pending else s.target.pending ++ [.chA]
        resp := byteBits s.anyByte } } := by
  refine exec_command_inDebug h rfl ?_
  rw [Target.delivered_armed data hA hc]
  rfl

theorem exec_burstWrite_unarmed {s : State} (data : List Byte) (h : s.target.inDebug = true)
    (hno : s.target.armedA = false ∨ s.target.config ≠ s.cfg.configEnableDma) :
    exec (.burstWrite data) s = .next { s with
      target := { s.target with xdata := [], resp := byteBits s.anyByte } } := by
  refine exec_command_inDebug h rfl ?_
  rw [Target.delivered_unarmed data hno]
  rfl

/-! ### Debug instructions that are none of the five (30_encoding.md R112) -/

theorem exec_debugInstr1_unknown {s : State} {i0 : Byte} (h : s.target.inDebug = true) (hst : i0 ≠ s.cfg.iMovxSt)
    (hld : i0 ≠ s.cfg.iMovxLd) (hinc : i0 ≠ s.cfg.iIncDptr) :
    exec (.debugInstr1 i0) s = .next { s with
      target := { s.target.forget s.clock with resp := byteBits s.anyByte } } := by
  refine exec_command_inDebug h rfl ?_
  rw [if_neg hst, if_neg hld, if_neg hinc]
  rfl

theorem exec_debugInstr2_unknown {s : State} {i0 : Byte} (i1 : Byte) (h : s.target.inDebug = true)
    (hmov : i0 ≠ s.cfg.iMovA) :
    exec (.debugInstr2 i0 i1) s = .next { s with
      target := { s.target.forget s.clock with resp := byteBits s.anyByte } } := by
  refine exec_command_inDebug h rfl ?_
  rw [if_neg hmov]
  rfl

theorem exec_debugInstr3_unknown {s : State} {i0 : Byte} (i1 i2 : Byte) (h : s.target.inDebug = true)
    (hmov : i0 ≠ s.cfg.iMovDptr) :
    exec (.debugInstr3 i0 i1 i2) s = .next { s with
      target := { s.target.forget s.clock with resp := byteBits s.anyByte } } := by
  refine exec_command_inDebug h rfl ?_
  rw [if_neg hmov]
  rfl

/-- Settles O47: the effect of each command in debug mode, and that of every command out of it. -/
theorem otherCommands : Obligations.OtherCommands := by
  intro s c i0 i1 i2 data
  refine ⟨fun h => ⟨⟨s.anyByte, ?erase⟩, ⟨s.anyByte, ?config⟩, ⟨s.anyByte, ?status⟩,
    ⟨s.anyByte, s.anyByte2, ?chipId⟩,
    fun hA hc => ⟨_, exec_burstWrite_armed data h hA hc⟩, fun hno => ⟨_, exec_burstWrite_unarmed data h hno⟩,
    fun hst hld hinc => ⟨_, exec_debugInstr1_unknown h hst hld hinc⟩,
    fun hmov => ⟨_, exec_debugInstr2_unknown i1 h hmov⟩, fun hmov => ⟨_, exec_debugInstr3_unknown i1 i2 h hmov⟩⟩,
    ?outOfStep⟩
  case erase | config | status | chipId => exact exec_command_inDebug h rfl rfl
  case outOfStep =>
    intro i hi h
    obtain ⟨effect, he⟩ := exec_command_eq hi s
    rw [he, State.command_outOfStep h]

/-! ### The side effects of a store (20_memory.md R69) -/

section Stored
variable {t : Target} {cfg : Config} {a : Half} {v : Byte}

theorem Target.stored_arm (ha : a = cfg.addrDmaarm) (hv : v = cfg.armA ∨ v = cfg.armB) :
    t.stored cfg a v = { t with armedA := t.armedA || v == cfg.armA, armedB := t.armedB || v == cfg.armB } := by
  rw [Target.stored, if_pos ha, Target.armStored, if_pos hv]

theorem Target.stored_disarm (ha : a = cfg.addrDmaarm) (hA : v ≠ cfg.armA) (hB : v ≠ cfg.armB) :
    t.stored cfg a v = { t with armedA := false, armedB := false } := by
  rw [Target.stored, if_pos ha, Target.armStored, if_neg (not_or.2 ⟨hA, hB⟩)]

theorem Target.stored_trigger (ha : a ≠ cfg.addrDmaarm) (ha' : a = cfg.addrFctl) (hv : v = cfg.fctlWriteValue)
    (hB : t.armedB = true) (hc : t.config = cfg.configEnableDma) :
    t.stored cfg a v = { t with pending := t.pending ++ [.chB] } := by
  rw [Target.stored, if_neg ha, if_pos ha', if_pos ⟨hv, hB, hc⟩]

theorem Target.stored_noTrigger (ha : a ≠ cfg.addrDmaarm) (ha' : a = cfg.addrFctl)
    (hno : v ≠ cfg.fctlWriteValue ∨ t.armedB = false ∨ t.config ≠ cfg.configEnableDma) :
    t.stored cfg a v = t.loseFlash := by
  rw [Target.stored, if_neg ha, if_pos ha', if_neg]
  rintro ⟨hv, hB, hc⟩
  simp [hv, hB, hc] at hno

theorem Target.stored_flashData (ha : a ≠ cfg.addrDmaarm) (ha' : a ≠ cfg.addrFctl) (ha'' : a = cfg.addrFwdata) :
    t.stored cfg a v = t.loseFlash := by
  rw [Target.stored, if_neg ha, if_neg ha', if_pos ha'']

theorem Target.stored_debugData (ha : a ≠ cfg.addrDmaarm) (ha' : a ≠ cfg.addrFctl) (ha'' : a ≠ cfg.addrFwdata)
    (ha''' : a = cfg.addrDbgdata) : t.stored cfg a v = t.delivered cfg [v] := by
  rw [Target.stored, if_neg ha, if_neg ha', if_neg ha'', if_pos ha''']

end Stored

/-- The target with the byte at its pointer stored, before the side effects of that store. -/
def Target.withStore (t : Target) : Target := { t with xdata := t.xdata.write t.dptr.toNat t.acc }

/-- A store is the byte in XDATA, its side effects, and a response byte. -/
theorem exec_tMovxSt_eq {s : State} {u : Target} (h : s.target.inDebug = true)
    (hu : s.target.withStore.stored s.cfg s.target.dptr s.target.acc = u) :
    exec .tMovxSt s = .next { s with target := { u with resp := byteBits s.anyByte } } := by
  refine exec_command_inDebug h rfl ?_
  rw [← hu]
  rfl

/-- Settles O46: the side effects of the store in each case of its address. -/
theorem storeFrame : Obligations.StoreFrame := by
  intro s h
  refine ⟨Memory.read_write_same _ _ _, fun k hk => Memory.read_write_other _ _ hk, s.anyByte, _, rfl, ?arm,
    ?flashControl, ?flashData, fun hArm hCtl hData => ⟨?taken, ?lost, ?plain⟩⟩
  case arm =>
    exact fun ha => ⟨fun hv => exec_tMovxSt_eq h (Target.stored_arm ha hv),
      fun hA hB => exec_tMovxSt_eq h (Target.stored_disarm ha hA hB)⟩
  case flashControl =>
    exact fun ha ha' => ⟨fun hv hB hc => exec_tMovxSt_eq h (Target.stored_trigger ha ha' hv hB hc),
      fun hno => exec_tMovxSt_eq h (Target.stored_noTrigger ha ha' hno)⟩
  case flashData => exact fun ha ha' ha'' => exec_tMovxSt_eq h (Target.stored_flashData ha ha' ha'')
  case taken =>
    exact fun hDbg hA hc => exec_tMovxSt_eq h
      ((Target.stored_debugData hArm hCtl hData hDbg).trans (Target.delivered_armed (t := s.target.withStore) _ hA hc))
  case lost =>
    exact fun hDbg hno => exec_tMovxSt_eq h
      ((Target.stored_debugData hArm hCtl hData hDbg).trans (Target.delivered_unarmed (t := s.target.withStore) _ hno))
  case plain => exact fun hDbg => exec_tMovxSt_eq h (Target.stored_plain _ _ _ hArm hCtl hData hDbg)

end Sys2Proof.Machine
end

section
/-! PROOFS. The transfers of the two DMA channels (O48). -/

namespace Sys2Proof.Machine

/-! ### What a descriptor's instruction does -/

section Descriptor
variable {s : State} {src dst len : Half}

/-- From the debug-data buffer the transfer is channel A's. -/
theorem exec_dmaDescriptor_chA (c0 c1 : Byte) (h : s.target.inDebug = true) (hsrc : src = s.cfg.addrDbgdata) :
    exec (.dmaDescriptor src dst len c0 c1) s = .next { s with target := s.target.transferA dst len } := by
  simp only [exec, execDmaDescriptor, h, hsrc, Bool.not_true, Bool.false_eq_true, if_false, if_true]

/-- To the flash write-data register it is channel B's, where the flash holds all of it. -/
theorem exec_dmaDescriptor_chB {start : Nat} (c0 c1 : Byte) (h : s.target.inDebug = true)
    (hsrc : src ≠ s.cfg.addrDbgdata) (hdst : dst = s.cfg.addrFwdata) (hst : s.target.flashStart s.cfg = some start)
    (hfit : start + len.toNat ≤ flashSize) :
    exec (.dmaDescriptor src dst len c0 c1) s = .next { s with target := s.target.transferB start src len } := by
  simp only [exec, execDmaDescriptor, h, hsrc, hdst, hst, hfit, Bool.not_true, Bool.false_eq_true, if_false, if_true]

/-- Where it does not, nothing of flash is known afterwards (notes/assumptions/34.md). -/
theorem exec_dmaDescriptor_chB_beyond {start : Nat} (c0 c1 : Byte) (h : s.target.inDebug = true)
    (hsrc : src ≠ s.cfg.addrDbgdata) (hdst : dst = s.cfg.addrFwdata) (hst : s.target.flashStart s.cfg = some start)
    (hbeyond : flashSize < start + len.toNat) :
    exec (.dmaDescriptor src dst len c0 c1) s = .next { s with target := s.target.loseFlash } := by
  simp only [exec, execDmaDescriptor, h, hsrc, hdst, hst, Nat.not_le.2 hbeyond, Bool.not_true, Bool.false_eq_true,
    if_false, if_true]

/-- The same where the start address is not known (notes/assumptions/7.md). -/
theorem exec_dmaDescriptor_chB_unknown (c0 c1 : Byte) (h : s.target.inDebug = true) (hsrc : src ≠ s.cfg.addrDbgdata)
    (hdst : dst = s.cfg.addrFwdata) (hst : s.target.flashStart s.cfg = none) :
    exec (.dmaDescriptor src dst len c0 c1) s = .next { s with target := s.target.loseFlash } := by
  simp only [exec, execDmaDescriptor, h, hsrc, hdst, hst, Bool.not_true, Bool.false_eq_true, if_false, if_true]

end Descriptor

/-- The start address is not known where one of its two registers is not. -/
theorem Target.flashStart_none {t : Target} {cfg : Config}
    (h : t.xdata.read cfg.addrFaddrh.toNat = none ∨ t.xdata.read cfg.addrFaddrl.toNat = none) :
    t.flashStart cfg = none := by
  unfold Target.flashStart
  obtain h | h := h
  · rw [h]
  · rw [h]; split <;> simp_all

/-! ### The two transfers (20_memory.md R81) -/

/-- Channel A's transfer, where its length is that of the bytes waiting and it stays within XDATA. -/
theorem Target.transferA_eq {t : Target} {dst len : Half} (hlen : t.dbg.length = len.toNat)
    (hfit : dst.toNat + len.toNat ≤ 65536) :
    t.transferA dst len =
      { t with xdata := t.xdata.writeBytes dst.toNat t.dbg, dbg := [], armedA := false } := by
  rw [Target.transferA, if_pos ⟨hlen, hfit⟩]

/-- Channel B's transfer, where the staged bytes are known. -/
theorem Target.transferB_eq {t : Target} {start : Nat} {src len : Half} {bytes : List Byte}
    (h : t.xdata.readBytes src.toNat len.toNat = some bytes) :
    t.transferB start src len = { t.programBytes start bytes with armedB := false } := by
  rw [Target.transferB, h]

/-- Programming leaves XDATA. -/
theorem Target.programBytes_xdata (t : Target) (a : Nat) (vs : List Byte) : (t.programBytes a vs).xdata = t.xdata := by
  rw [t.programBytes_frame a vs]

/-- Settles O48: the bytes a channel's transfer writes are found at its destination, the others as before. -/
theorem dmaTransfers : Obligations.DmaTransfers := by
  intro s src dst len c0 c1 h
  refine ⟨?chA, ?chB, ?beyond, ?unknown⟩
  case chA =>
    intro hsrc hlen hfit
    refine ⟨_, exec_dmaDescriptor_chA c0 c1 h hsrc, ?_⟩
    rw [Target.transferA_eq hlen hfit]
    refine ⟨fun k hk => ?inside, fun k hk => ?outside, rfl, rfl, rfl⟩
    case inside => exact Memory.read_writeBytes_inside _ _ _ (hlen ▸ hk)
    case outside => exact Memory.read_writeBytes_outside _ _ _ (hlen ▸ hk)
  case chB =>
    intro start hb lb bytes hsrc hdst hh hl hstart hbytes hfit herased hblank
    have hst : s.target.flashStart s.cfg = some start := hstart ▸ Target.flashStart_eq _ _ hh hl
    have hlen : bytes.length = len.toNat := Memory.readBytes_length _ _ _ hbytes
    refine ⟨_, exec_dmaDescriptor_chB c0 c1 h hsrc hdst hst hfit, ?_⟩
    rw [Target.transferB_eq hbytes]
    refine ⟨fun k hk => ?inside, fun k hk => ?outside, s.target.programBytes_xdata _ _, rfl, rfl⟩
    case inside => exact Target.programBytes_inside _ _ _ herased (hlen ▸ hblank) (hlen ▸ hk)
    case outside => exact Target.programBytes_outside _ _ _ (hlen ▸ hk)
  case beyond =>
    intro start hb lb hsrc hdst hh hl hstart hbeyond
    have hst : s.target.flashStart s.cfg = some start := hstart ▸ Target.flashStart_eq _ _ hh hl
    exact exec_dmaDescriptor_chB_beyond c0 c1 h hsrc hdst hst hbeyond
  case unknown =>
    intro hsrc hdst hnone
    exact exec_dmaDescriptor_chB_unknown c0 c1 h hsrc hdst (Target.flashStart_none hnone)

end Sys2Proof.Machine
end

section
/-! PROOFS. Flash addresses: the start address and its two bytes (O6), bank, offset and window (O7), and the reads of the
bank window that follow (O33). -/

namespace Sys2Proof.Machine

/-! ### An operation issued -/

/-- An operation whose requirement fails is refused. -/
theorem issue_refused {ok : Bool} (s t : State) (h : ok = false) :
    issue ok s t = .next { s with tasks := [], result := .refused } := by
  rw [h]; rfl

/-- An operation whose requirement holds has its effect. -/
theorem issue_accepted {ok : Bool} (s t : State) (h : ok = true) : issue ok s t = .next t := by
  rw [h]; rfl

/-! ### The flash start address (20_memory.md R72) -/

/-- The two bytes hold bits 17:2 of the address. -/
theorem be16_faddr {a : Nat} (h : a < 262144) : (be16 (faddrH a) (faddrL a)).toNat = a / 4 := by
  rw [be16_toNat, faddrH, faddrL, BitVec.toNat_ofNat, BitVec.toNat_ofNat]
  omega

theorem faddrH_eq_extract {a : Nat} (h : a < 262144) : faddrH a = (BitVec.ofNat 18 a).extractLsb' 10 8 := by
  apply BitVec.eq_of_toNat_eq
  simp only [faddrH, BitVec.toNat_ofNat, BitVec.extractLsb'_toNat, Nat.shiftRight_eq_div_pow]
  omega

theorem faddrL_eq_extract {a : Nat} (h : a < 262144) : faddrL a = (BitVec.ofNat 18 a).extractLsb' 2 8 := by
  apply BitVec.eq_of_toNat_eq
  simp only [faddrL, BitVec.toNat_ofNat, BitVec.extractLsb'_toNat, Nat.shiftRight_eq_div_pow]
  omega

theorem be16_faddr_eq_extract {a : Nat} (h : a < 262144) :
    be16 (faddrH a) (faddrL a) = (BitVec.ofNat 18 a).extractLsb' 2 16 := by
  apply BitVec.eq_of_toNat_eq
  rw [be16_faddr h]
  simp only [BitVec.toNat_ofNat, BitVec.extractLsb'_toNat, Nat.shiftRight_eq_div_pow]
  omega

/-- No operand of FP is legal at a misaligned address. -/
theorem burstLegal_misaligned (cfg : Config) {a : Nat} (bs : List Byte) (h : a % 4 ≠ 0) :
    burstLegal cfg a bs = false := by
  simp [burstLegal, h]

/-- Settles O6: the split as numbers, and the refusal where the low bits are not zero. -/
theorem flashAddressSplit : Obligations.FlashAddressSplit := by
  refine fun a => ⟨fun h => ⟨be16_faddr_eq_extract h, faddrH_eq_extract h, faddrL_eq_extract h, ?_⟩,
    fun h s bs => ⟨issue_refused _ _ ?_, issue_refused _ _ ?_⟩⟩
  · rw [be16_faddr h]; omega
  · rw [burstLegal_misaligned _ _ h, Bool.and_false]
  · rw [burstLegal_misaligned _ _ h, Bool.and_false]

/-! ### Banks (20_memory.md R74) -/

theorem bankOf_eq_shiftRight (a : Nat) : bankOf a = a >>> 15 := (Nat.shiftRight_eq_div_pow a 15).symm

theorem offOf_eq_and (a : Nat) : offOf a = a &&& 0x7FFF := (Nat.and_two_pow_sub_one_eq_mod a 15).symm

theorem xaddrOf_eq (cfg : Config) (a : Nat) : xaddrOf cfg a = cfg.bankWindowBase + BitVec.ofNat 16 (a &&& 0x7FFF) := by
  rw [xaddrOf, offOf_eq_and]

theorem offOf_lt (a : Nat) : offOf a < 32768 := Nat.mod_lt a (by decide)

/-- With the window in the upper half of XDATA its addresses do not wrap. -/
theorem xaddrOf_upperHalf {cfg : Config} (h : cfg.bankWindowBase = 0x8000#16) (a : Nat) :
    (xaddrOf cfg a).toNat = 0x8000 + offOf a := by
  have hoff := offOf_lt a
  rw [xaddrOf, h]
  generalize offOf a = o at hoff ⊢
  bv_omega

/-- Settles O7: bank and offset are the high and the low bits of the address. -/
theorem bankTranslation : Obligations.BankTranslation := by
  intro cfg a h
  have hbank : bankOf a ≤ 7 := Nat.le_of_lt_succ (Nat.div_lt_of_lt_mul h)
  exact ⟨bankOf_eq_shiftRight a, offOf_eq_and a, hbank, xaddrOf_eq cfg a, fun hbase => xaddrOf_upperHalf hbase a⟩

/-! ### The passes of a banked read (44_flash_read_and_transfer.md R271) -/

theorem flashRange_iff (a n : Nat) : flashRange a n = true ↔ a + n ≤ 262144 := decide_eq_true_iff

theorem flashRange_beyond {a n : Nat} (h : 262144 < a + n) : flashRange a n = false :=
  decide_eq_false (Nat.not_le.2 h)

/-- A segment: the bank is selected, then the pointer loaded, then at most the rest of that bank is read. -/
theorem stepReadSeg_bank {n : Nat} (a : Nat) (out : List Byte) (rest : List Task) (s : State) (h : n ≠ 0) :
    stepReadSeg a n out rest s = { s with
      tasks := .op (.write s.cfg.addrMemctr (BitVec.ofNat 8 (a >>> 15))) ::
        di (diMovDptr s.cfg (s.cfg.bankWindowBase + BitVec.ofNat 16 (a &&& 0x7FFF))) ::
        .readByte (min n (32768 - a % 32768)) a n out :: rest } := by
  rw [stepReadSeg, if_neg h, bankOf_eq_shiftRight, xaddrOf_eq]
  rfl

theorem stepReadByte_load {m : Nat} (a n : Nat) (out : List Byte) (rest : List Task) (s : State) (h : m ≠ 0) :
    stepReadByte m a n out rest s = { s with tasks := di (diMovxLd s.cfg) :: .readGot m a n out :: rest } :=
  if_neg h

/-- Settles O33: the two operations, and each point of the loops. -/
theorem bankedRead : Obligations.BankedRead := by
  intro s a n m out b bs rest ho
  have hheld : s.held = true := s.held_eq_true.2 ho
  refine ⟨fun hfit => ?banked, fun hbeyond => ?bankedRefused, fun hchip hfit => ?read, fun hbeyond => ?readRefused, rfl,
    stepReadSeg_bank a out rest s, rfl, stepReadByte_load a n out rest s, fun hres => ?got⟩
  case banked => exact issue_accepted _ _ (Bool.and_eq_true_iff.2 ⟨hheld, (flashRange_iff a n).2 hfit⟩)
  case bankedRefused => exact issue_refused _ _ (by rw [flashRange_beyond hbeyond, Bool.and_false])
  case read =>
    exact issue_accepted _ _ (Bool.and_eq_true_iff.2 ⟨s.ready_eq_true.2 ⟨ho, hchip⟩, (flashRange_iff a n).2 hfit⟩)
  case readRefused => exact issue_refused _ _ (by rw [flashRange_beyond hbeyond, Bool.and_false])
  case got =>
    have hbyte : s.resultByte = b := by rw [State.resultByte, hres]
    rw [stepTask, stepReadGot, hbyte]
    rfl

end Sys2Proof.Machine
end

section
/-! PROOFS. The start of a session, and the configurations it accepts (O40). -/

namespace Sys2Proof.Machine

/-! ### Legal configurations (20_memory.md R70, R71) -/

theorem blockSizeLegal_iff (cfg : Config) :
    blockSizeLegal cfg = true ↔
      262144 % cfg.blockSize = 0 ∧ cfg.blockSize % 4 = 0 ∧ 0 < cfg.blockSize ∧ cfg.blockSize ≤ cfg.burstMax ∧
        cfg.blockSize ≤ 65534 := by
  simp only [blockSizeLegal, flashSize, Bool.and_eq_true, decide_eq_true_eq, beq_iff_eq]
  tauto

theorem disjointRegions_iff (a : Half) (m : Nat) (b : Half) (n : Nat) :
    disjointRegions a m b n = true ↔ a.toNat + m ≤ b.toNat ∨ b.toNat + n ≤ a.toNat := by
  simp only [disjointRegions, Bool.or_eq_true, decide_eq_true_eq]

theorem not_inRegion_iff (base : Half) (n a : Nat) :
    (!inRegion base n a) = true ↔ a < base.toNat ∨ base.toNat + n ≤ a := by
  simp only [inRegion, Bool.not_eq_true', Bool.and_eq_false_iff, decide_eq_false_iff_not, Nat.not_le, Nat.not_lt]

theorem ramLayoutLegal_iff (cfg : Config) :
    ramLayoutLegal cfg = true ↔
      (cfg.addrBuf.toNat + cfg.blockSize ≤ cfg.addrDescA.toNat ∨ cfg.addrDescA.toNat + 8 ≤ cfg.addrBuf.toNat) ∧
      (cfg.addrBuf.toNat + cfg.blockSize ≤ cfg.addrDescB.toNat ∨ cfg.addrDescB.toNat + 8 ≤ cfg.addrBuf.toNat) ∧
      (cfg.addrDescA.toNat + 8 ≤ cfg.addrDescB.toNat ∨ cfg.addrDescB.toNat + 8 ≤ cfg.addrDescA.toNat) ∧
      ∀ r ∈ registerAddresses cfg,
        (r.toNat < cfg.addrBuf.toNat ∨ cfg.addrBuf.toNat + cfg.blockSize ≤ r.toNat) ∧
        (r.toNat < cfg.addrDescA.toNat ∨ cfg.addrDescA.toNat + 8 ≤ r.toNat) ∧
        (r.toNat < cfg.addrDescB.toNat ∨ cfg.addrDescB.toNat + 8 ≤ r.toNat) := by
  simp only [ramLayoutLegal, descLen, Bool.and_eq_true, disjointRegions_iff, List.all_eq_true,
    not_inRegion_iff, and_assoc]

/-- Settles O40: the requirement of the operation, its effect, and what a legal configuration is. -/
theorem sessionStart : Obligations.SessionStart := by
  intro s
  refine ⟨fun hfree hlegal => ?accepted, fun hheld => ?held, fun hillegal => ?illegal, ?legal⟩
  case accepted => exact issue_accepted _ _ (by rw [hfree, hlegal]; rfl)
  case held => exact issue_refused _ _ (by rw [hheld]; rfl)
  case illegal => exact issue_refused _ _ (by rw [hillegal, Bool.and_false])
  case legal => rw [configLegal, Bool.and_eq_true, blockSizeLegal_iff, ramLayoutLegal_iff]; rfl

end Sys2Proof.Machine
end

section
/-! PROOFS. Every step keeps the form of the target's memories, the depth of the queues, ERR among the codes that are
raised, and TO_OFF at TO_BLK blocks (O55). -/

namespace Sys2Proof.Machine

/-! ### What is kept -/

/-- The four invariants, each from one state to another. -/
structure KeepsData (s t : State) : Prop where
  mem : s.memLegal = true → t.memLegal = true
  fifos : s.fifosLegal = true → t.fifosLegal = true
  err : s.errLegal = true → t.errLegal = true
  off : s.offLegal = true → t.offLegal = true

theorem KeepsData.refl (s : State) : KeepsData s s := ⟨id, id, id, id⟩

theorem KeepsData.trans {s t u : State} (h : KeepsData s t) (h' : KeepsData t u) : KeepsData s u :=
  ⟨h'.mem ∘ h.mem, h'.fifos ∘ h.fifos, h'.err ∘ h.err, h'.off ∘ h.off⟩

/-- The state with all but what the four invariants read at its reset value. -/
def State.dataPart (s : State) : State :=
  { State.reset with
    cfg := s.cfg, err := s.err, toBlk := s.toBlk, toOff := s.toOff, txf := s.txf, rxf := s.rxf
    target := { Target.atPowerOn with xdata := s.target.xdata, flash := s.target.flash } }

/-- The four invariants speak of nothing but that part. -/
theorem KeepsData.of_dataPart {s t : State} (h : t.dataPart = s.dataPart) : KeepsData s t := by
  obtain ⟨hmem, hfifos, herr, hoff⟩ : KeepsData s.dataPart t.dataPart := h ▸ .refl _
  exact ⟨hmem, hfifos, herr, hoff⟩

/-- What changes nothing of that part may follow. -/
theorem KeepsData.andThen {s t u : State} (h : KeepsData s t) (hu : u.dataPart = t.dataPart) : KeepsData s u :=
  h.trans (.of_dataPart hu)

/-! ### The target's memories (notes/assumptions/9.md) -/

/-- Both memories are in canonical form. -/
def Target.wf (t : Target) : Prop := t.xdata.wf = true ∧ t.flash.wf = true

theorem State.memLegal_iff (s : State) : s.memLegal = true ↔ s.target.wf := Bool.and_eq_true_iff

/-- A memory that stays, or is lost sight of, keeps its form. -/
theorem Memory.wf_of_lost {m m' : Memory} (h : m' = m ∨ m' = []) (hm : m.wf = true) : m'.wf = true := by
  obtain rfl | rfl := h
  · exact hm
  · rfl

theorem Target.wf_of_lost {t u : Target} (hx : u.xdata = t.xdata ∨ u.xdata = [])
    (hf : u.flash = t.flash ∨ u.flash = []) (h : t.wf) : u.wf := by
  obtain ⟨hxdata, hflash⟩ := h
  exact ⟨Memory.wf_of_lost hx hxdata, Memory.wf_of_lost hf hflash⟩

theorem Target.wf_forget (t : Target) (n : Nat) : (t.forget n).wf := ⟨rfl, rfl⟩

theorem Target.wf_sees {t : Target} (n : Nat) (out oe out' oe' : BitVec 3) (h : t.wf) :
    (t.sees n out oe out' oe').wf := by
  obtain ⟨hx, hf⟩ := t.sees_memories n out oe out' oe'
  exact Target.wf_of_lost hx (.inl hf) h

theorem Target.wf_stored {t : Target} (cfg : Config) (a : Half) (v : Byte) (h : t.wf) : (t.stored cfg a v).wf := by
  obtain ⟨hx, hf⟩ := t.stored_memories cfg a v
  exact Target.wf_of_lost hx hf h

theorem Target.wf_movxSt {t : Target} (cfg : Config) (h : t.wf) : (t.movxSt cfg).wf := by
  obtain ⟨hx, hf⟩ := h
  exact Target.wf_stored _ _ _ ⟨Memory.wf_write _ _ hx, hf⟩

theorem Target.wf_delivered {t : Target} (cfg : Config) (data : List Byte) (h : t.wf) : (t.delivered cfg data).wf := by
  obtain ⟨hx, hf⟩ := h
  obtain ⟨_, _, hd⟩ | ⟨_, hd⟩ := t.delivered_cases cfg data <;> rw [hd]
  · exact ⟨hx, hf⟩
  · exact ⟨rfl, hf⟩

theorem Target.wf_loseFlash {t : Target} (h : t.wf) : t.loseFlash.wf := by
  obtain ⟨hx, _⟩ := h
  exact ⟨hx, rfl⟩

theorem Target.wf_transferA {t : Target} (dst len : Half) (h : t.wf) : (t.transferA dst len).wf := by
  obtain ⟨hx, hf⟩ := h
  unfold Target.transferA
  split
  · exact ⟨Memory.wf_writeBytes _ _ hx, hf⟩
  · exact ⟨rfl, hf⟩

theorem Target.wf_transferB {t : Target} (start : Nat) (src len : Half) (h : t.wf) :
    (t.transferB start src len).wf := by
  obtain ⟨hx, hf⟩ := h
  unfold Target.transferB
  split
  · rename_i bytes _
    exact ⟨(t.programBytes_xdata start bytes).symm ▸ hx, Target.programBytes_wf _ _ _ hf⟩
  · exact Target.wf_loseFlash ⟨hx, hf⟩

theorem Target.wf_afterFailure {t : Target} (n : Nat) (f : Failure) (h : t.wf) : (t.afterFailure n f).wf := by
  cases f with
  | linkTimeout | eraseTimeout | programTimeout => exact ⟨rfl, rfl⟩
  | chipUnidentified | storageError _ => exact h

/-- A change of the target keeps the data where it keeps the form of its memories. -/
theorem KeepsData.of_target {s t : State} (ht : t = { s with target := t.target }) (h : s.target.wf → t.target.wf) :
    KeepsData s t := by
  refine ⟨fun hs => t.memLegal_iff.2 (h (s.memLegal_iff.1 hs)), ?_, ?_, ?_⟩ <;> rw [ht] <;> exact id

/-! ### The queues (10_state.md R33) -/

theorem State.fifosLegal_iff (s : State) :
    s.fifosLegal = true ↔ s.txf.length ≤ s.cfg.txfDepth ∧ s.rxf.length ≤ s.cfg.rxfDepth := by
  simp only [State.fifosLegal, Bool.and_eq_true, decide_eq_true_eq]

theorem keepsData_popTxf {s : State} {w : Word} {rest : List Word} (h : s.txf = w :: rest) :
    KeepsData s { s with txf := rest } := by
  refine ⟨id, fun hs => ?_, id, id⟩
  obtain ⟨htxf, hrxf⟩ := s.fifosLegal_iff.1 hs
  rw [h, List.length_cons] at htxf
  exact (State.fifosLegal_iff _).2 ⟨Nat.le_of_succ_le htxf, hrxf⟩

theorem keepsData_popRxf {s : State} {w : Word} {rest : List Word} (h : s.rxf = w :: rest) :
    KeepsData s { s with rxf := rest } := by
  refine ⟨id, fun hs => ?_, id, id⟩
  obtain ⟨htxf, hrxf⟩ := s.fifosLegal_iff.1 hs
  rw [h, List.length_cons] at hrxf
  exact (State.fifosLegal_iff _).2 ⟨htxf, Nat.le_of_succ_le hrxf⟩

theorem keepsData_pushTxf {s : State} (w : Word) (h : ¬ s.txfFull = true) :
    KeepsData s { s with txf := s.txf ++ [w] } := by
  have hroom : s.txf.length < s.cfg.txfDepth := by simpa [State.txfFull] using h
  refine ⟨id, fun hs => (State.fifosLegal_iff _).2 ⟨?_, (s.fifosLegal_iff.1 hs).2⟩, id, id⟩
  simpa using hroom

theorem keepsData_pushRxf {s : State} (w : Word) (h : ¬ s.rxfFull = true) :
    KeepsData s { s with rxf := s.rxf ++ [w] } := by
  have hroom : s.rxf.length < s.cfg.rxfDepth := by simpa [State.rxfFull] using h
  refine ⟨id, fun hs => (State.fifosLegal_iff _).2 ⟨(s.fifosLegal_iff.1 hs).1, ?_⟩, id, id⟩
  simpa using hroom

theorem keepsData_clearQueues (s : State) : KeepsData s { s with txf := [], rxf := [] } :=
  ⟨id, fun _ => (State.fifosLegal_iff _).2 ⟨Nat.zero_le _, Nat.zero_le _⟩, id, id⟩

/-! ### ERR (60_exceptions.md R290) and TO_OFF (44_flash_read_and_transfer.md R275) -/

/-- A failure writes ERR with one of the codes that are raised. -/
theorem keepsData_raise (s : State) (f : Failure) : KeepsData s (s.raise f) := by
  refine ⟨fun hs => ?_, id, fun _ => ?_, id⟩
  · exact (State.memLegal_iff _).2 (Target.wf_afterFailure _ f (s.memLegal_iff.1 hs))
  · cases f <;> rfl

theorem keepsData_clearErr (s : State) : KeepsData s { s with err := 0#3 } := ⟨id, id, fun _ => rfl, id⟩

theorem State.offLegal_iff (s : State) : s.offLegal = true ↔ s.toOff = s.toBlk * BitVec.ofNat 19 s.cfg.blockSize :=
  beq_iff_eq

/-- A pass begins at block 0. -/
theorem keepsData_firstBlock (s : State) : KeepsData s { s with toBlk := 0#19, toOff := 0#19 } :=
  ⟨id, id, id, fun _ => (State.offLegal_iff _).2 (BitVec.zero_mul).symm⟩

/-- One block more is one `BLOCK_SIZE` more. -/
theorem keepsData_advanceBlock (s : State) : KeepsData s s.advanceBlock := by
  refine ⟨id, id, id, fun hs => (State.offLegal_iff _).2 ?_⟩
  calc s.toOff + BitVec.ofNat 19 s.cfg.blockSize
      = s.toBlk * BitVec.ofNat 19 s.cfg.blockSize + BitVec.ofNat 19 s.cfg.blockSize := by rw [s.offLegal_iff.1 hs]
    _ = (s.toBlk + 1#19) * BitVec.ofNat 19 s.cfg.blockSize := by rw [BitVec.add_mul, BitVec.one_mul]

/-! ### The lifecycle -/

theorem keepsData_drive (s : State) (out oe : BitVec 3) : KeepsData s (s.drive out oe) :=
  ⟨fun hs => (State.memLegal_iff _).2 (Target.wf_sees _ _ _ _ _ (s.memLegal_iff.1 hs)), id, id, id⟩

theorem Target.wf_abort {s : State} (h : s.target.wf) : s.abort.target.wf := by
  unfold State.abort
  dsimp only
  split
  · exact Target.wf_sees _ _ _ _ _ h
  · exact ⟨rfl, rfl⟩

theorem keepsData_abort (s : State) : KeepsData s s.abort := by
  have htarget : KeepsData s { s with target := s.abort.target } := .of_target rfl Target.wf_abort
  exact (htarget.trans (keepsData_clearQueues _)).andThen rfl

theorem keepsData_teardown (s : State) : KeepsData s s.teardown := by
  unfold State.teardown
  split
  · exact (keepsData_abort s).andThen rfl
  · exact .of_dataPart rfl
  · exact .refl s

theorem keepsData_switch (s : State) (v : Variant) : KeepsData s (s.switch v) := by
  unfold State.switch
  split
  · exact .refl s
  · exact (keepsData_teardown s).andThen rfl

theorem keepsData_linkTimeout (s : State) : KeepsData s s.linkTimeout := by
  unfold State.linkTimeout
  split
  · exact (keepsData_abort s).trans (keepsData_raise _ _)
  · exact keepsData_raise _ _

theorem keepsData_askTimer (s : State) (i : TimerId) : KeepsData s (s.askTimer i) := by
  cases i <;> exact .of_dataPart rfl

/-! ### The host context -/

/-- An operation keeps the data where its effect does: a refusal changes nothing of it. -/
theorem issue_keepsData {ok : Bool} {s t u : State} (h : issue ok s t = .next u) (ht : KeepsData s t) :
    KeepsData s u := by
  obtain ⟨_, rfl⟩ | ⟨_, rfl⟩ := issue_eq_next.1 h
  · exact ht
  · exact .of_dataPart rfl

theorem keepsData_endSession (s : State) : KeepsData s s.endSession :=
  ((keepsData_teardown s).trans (keepsData_firstBlock _)).andThen rfl

/-- An operation issued: only the lifecycle, an exchange and the begin and end of a session or a pass touch the data. -/
theorem exec_operation_keepsData {s t : State} {i : Instr} (hi : isOperation i = true) (h : exec i s = .next t) :
    KeepsData s t := by
  cases i
  case leStop | leAbort => exact issue_keepsData h ((keepsData_abort s).andThen rfl)
  case leSwitch v => exact issue_keepsData h ((keepsData_switch s v).andThen rfl)
  case leAttach => exact issue_keepsData h ((keepsData_teardown s).andThen rfl)
  case cpXchg f => exact issue_keepsData h ((keepsData_switch s (variantOf f.kind)).andThen rfl)
  case fpClockInit => exact issue_keepsData h (.of_dataPart (by split <;> rfl))
  case toSessionStart =>
    exact issue_keepsData h (((keepsData_clearErr s).trans (keepsData_firstBlock _)).andThen rfl)
  case toWriteAll | toReadAll => exact issue_keepsData h ((keepsData_firstBlock s).andThen rfl)
  case toSessionEnd => exact issue_keepsData h ((keepsData_endSession s).andThen rfl)
  case toRestart => exact issue_keepsData h (((keepsData_endSession s).trans (keepsData_clearErr _)).andThen rfl)
  all_goals first | exact issue_keepsData h (.of_dataPart rfl) | exact (Bool.false_ne_true hi).elim

theorem stepSend_keepsData (words : List Word) (rest : List Task) (s : State) :
    KeepsData s (stepSend words rest s) := by
  unfold stepSend
  split
  · exact .of_dataPart rfl
  · split
    · split
      · exact (keepsData_askTimer s _).trans (keepsData_linkTimeout _)
      · exact keepsData_askTimer s _
    · rename_i hroom
      exact (keepsData_pushTxf _ hroom).andThen rfl

theorem stepAwait_keepsData (f : Frame) (rest : List Task) (s : State) : KeepsData s (stepAwait f rest s) := by
  have hexpired : KeepsData s (s.askTimer .tmo).linkTimeout :=
    (keepsData_askTimer s .tmo).trans (keepsData_linkTimeout _)
  unfold stepAwait
  repeat' split
  all_goals first | exact hexpired | exact .of_dataPart rfl

theorem keepsData_pollFails (s : State) (i : TimerId) (f : Failure) : KeepsData s ((s.askTimer i).raise f) :=
  (keepsData_askTimer s i).trans (keepsData_raise _ _)

theorem keepsData_pollAgain (s : State) (i : TimerId) (tasks : List Task) :
    KeepsData s { s.askTimer i with tasks := tasks } :=
  (keepsData_askTimer s i).andThen rfl

/-- A point of an operation passed. -/
theorem stepTask_keepsData (k : Task) (rest : List Task) (s : State) : KeepsData s (stepTask k rest s) := by
  cases k
  case send words => exact stepSend_keepsData words rest s
  case await f => exact stepAwait_keepsData f rest s
  case arm i => cases i <;> exact .of_dataPart rfl
  case blockDone => exact (keepsData_advanceBlock s).andThen rfl
  all_goals simp only [stepTask]
  case waitDone => split <;> exact .of_dataPart rfl
  case identify =>
    unfold stepIdentify
    split
    · refine .trans ?_ (keepsData_raise _ _)
      exact .of_dataPart rfl
    · exact .of_dataPart rfl
  case eraseTest =>
    unfold stepEraseTest
    repeat' split
    exacts [.of_dataPart rfl, keepsData_pollFails s _ _, keepsData_pollAgain s _ _]
  case progTest =>
    unfold stepProgTest
    repeat' split
    exacts [.of_dataPart rfl, keepsData_pollFails s _ _, keepsData_pollAgain s _ _]
  case clockTest =>
    unfold stepClockTest
    repeat' split
    exacts [.of_dataPart rfl, keepsData_pollFails s _ _, keepsData_pollAgain s _ _]
  case readSeg => unfold stepReadSeg; split <;> exact .of_dataPart rfl
  case readByte => unfold stepReadByte; split <;> exact .of_dataPart rfl
  case writeLoop =>
    unfold stepWriteLoop
    split
    · split
      · exact keepsData_raise _ _
      · dsimp only; split <;> exact .of_dataPart rfl
    · exact .of_dataPart rfl
  case readLoop => unfold stepReadLoop; split <;> exact .of_dataPart rfl
  case appendBlock =>
    unfold stepAppendBlock
    split
    · refine .trans ?_ (keepsData_raise _ _)
      exact .of_dataPart rfl
    · exact (keepsData_advanceBlock s).andThen rfl
  all_goals exact .of_dataPart rfl

/-- A turn of the host context. -/
theorem run_hostMove_keepsData {s t : State} (h : run s.hostMove = .next t) : KeepsData s t := by
  rcases run_hostMove h with ⟨o, rest, _, he⟩ | ⟨_, _, _, ws, _, hrxf, rfl⟩ | ⟨k, rest, _, rfl⟩ |
    ⟨_, rs, i, _, _, hd, he⟩ | ⟨_, rs, _, _, rfl⟩ | ⟨_, _, rfl⟩
  · refine .trans ?_ (exec_operation_keepsData o.instr_isOperation he)
    exact .of_dataPart rfl
  · exact (keepsData_popRxf hrxf).andThen rfl
  · exact stepTask_keepsData k rest s
  · refine .trans ?_ (exec_operation_keepsData (decodeHop_isOperation hd) he)
    exact .of_dataPart rfl
  · exact .of_dataPart rfl
  · exact .refl _

/-! ### The target and its DMA controller -/

/-- A command keeps the form of the memories where its effect does. -/
theorem command_wf {s t : State} {effect : Target → Target}
    (h : (.next (s.command effect) : Host.Outcome State Fault Refusal) = .next t)
    (he : s.target.wf → (effect s.target).wf) (hs : s.target.wf) : t.target.wf := by
  obtain rfl := Host.Outcome.next.inj h
  obtain ⟨_, hc⟩ | ⟨_, hc⟩ := s.command_cases effect <;> rw [hc]
  · exact he hs
  · exact ⟨rfl, rfl⟩

theorem exec_command_wf {s t : State} {i : Instr} (hi : isCommand i = true) (h : exec i s = .next t)
    (hs : s.target.wf) : t.target.wf := by
  cases i
  case chipErase => exact command_wf h (fun ⟨hx, _⟩ => ⟨hx, rfl⟩) hs
  case tMovxSt => exact command_wf h (Target.wf_movxSt _) hs
  case burstWrite => exact command_wf h (Target.wf_delivered _ _) hs
  case debugInstr1 =>
    refine command_wf h (fun ht => ?_) hs
    split
    · exact Target.wf_movxSt _ ht
    · repeat' split
      exacts [ht, ht, ⟨rfl, rfl⟩]
  case debugInstr2 => exact command_wf h (fun ht => by split; exacts [ht, ⟨rfl, rfl⟩]) hs
  case debugInstr3 => exact command_wf h (fun ht => by split; exacts [ht, ⟨rfl, rfl⟩]) hs
  all_goals first | exact command_wf h id hs | exact (Bool.false_ne_true hi).elim

/-- A turn of the target. -/
theorem run_targetMove_keepsData {s t : State} (h : run s.targetMove = .next t) : KeepsData s t := by
  obtain ⟨hframe, _⟩ := run_targetMove_frame h
  refine .of_target hframe fun hs => ?_
  rcases run_targetMove h with ⟨_, fs, i, _, hd, he⟩ | ⟨_, fs, _, rfl⟩ | ⟨_, rfl⟩
  · exact exec_command_wf (s := { s with target := { s.target with inbox := fs } }) (decodeCommand_isCommand hd) he hs
  · exact ⟨rfl, rfl⟩
  · exact hs

/-- A turn of the DMA controller. -/
theorem run_dmaMove_keepsData {s t : State} (h : run s.dmaMove = .next t) : KeepsData s t := by
  obtain ⟨hframe, _⟩ := run_dmaMove_frame h
  refine .of_target hframe fun hs => ?_
  rcases run_dmaMove h with ⟨_, cs, src, dst, len, _, _, _, he⟩ | ⟨_, cs, _, rfl⟩ | rfl
  · have hs' : ({ s.target with pending := cs } : Target).wf := hs
    rcases execDmaDescriptor_cases he with rfl | rfl | ⟨start, _, _, rfl⟩ | rfl
    · exact Target.wf_forget _ _
    · exact Target.wf_transferA dst len hs'
    · exact Target.wf_transferB start src len hs'
    · exact Target.wf_loseFlash hs'
  · exact Target.wf_forget _ _
  · exact hs

/-! ### The sequencer -/

theorem takeSimple_dataPart (s : State) (w : Word) : (s.takeSimple w).dataPart = s.dataPart := by
  unfold State.takeSimple
  split <;> rfl

theorem takeStream0_dataPart (s : State) (w : Word) : (s.takeStream0 w).dataPart = s.dataPart := by
  unfold State.takeStream0
  split <;> rfl

theorem nextByte_dataPart (s : State) (w : Half) (o : BitVec 3) : (s.nextByte w o).dataPart = s.dataPart := by
  unfold State.nextByte
  split <;> rfl

/-- A response bit presented is taken from the response alone. -/
theorem presented_dataPart (s : State) : { s with target := s.presented }.dataPart = s.dataPart := by
  unfold State.presented
  split <;> rfl

/-- The falling edge of a transmitted bit is all that the target sees of its end (40_link_engine.md R157). -/
theorem execCTxlo_keepsData {s t : State} (h : exec .cTxlo s = .next t) : KeepsData s t := by
  obtain rfl := Host.Outcome.next.inj h
  refine (keepsData_drive s (setLine s.pinsOut 1 false) s.pinsOe).andThen ?_
  dsimp only
  split
  · rfl
  · split
    · split
      · rfl
      · exact nextByte_dataPart _ _ _
    · exact nextByte_dataPart _ _ _
    · exact nextByte_dataPart _ _ _

/-- A phase rule: it drives the pins, pops a word of TXF, or pushes one where RXF has room. -/
theorem exec_phaseRule_keepsData {s t : State} {i : Instr} (hi : isPhaseRule i = true) (h : exec i s = .next t) :
    KeepsData s t := by
  cases i
  case cTxlo => exact execCTxlo_keepsData h
  all_goals first | exact (Bool.false_ne_true hi).elim | obtain rfl := Host.Outcome.next.inj h
  case cIdleSimple =>
    split
    · exact .refl s
    · rename_i hw; exact (keepsData_popTxf hw).andThen (takeSimple_dataPart _ _)
  case cIdleExt =>
    split
    · exact .refl s
    · rename_i hw; exact (keepsData_popTxf hw).andThen rfl
  case cFetch0 =>
    split
    · exact .refl s
    · rename_i hw; exact (keepsData_popTxf hw).andThen (takeStream0_dataPart _ _)
  case cRefill =>
    split
    · exact .refl s
    · rename_i hw; exact (keepsData_popTxf hw).andThen rfl
  case cRxlo =>
    exact ((KeepsData.of_dataPart (presented_dataPart s)).trans (keepsData_drive _ _ _)).andThen rfl
  case cPush =>
    split
    · exact .refl s
    · rename_i hroom; exact (keepsData_pushRxf _ hroom).andThen rfl
  case atAssert | atHi | atLo | atRelease | cDirout | cTxset | cTxhi | cDirin | cRxhi =>
    exact (keepsData_drive s _ _).andThen rfl
  all_goals exact .of_dataPart rfl

/-- A turn of the sequencer. -/
theorem run_seqMove_keepsData {s t : State} (h : run s.seqMove = .next t) : KeepsData s t := by
  rcases run_seqMove h with ⟨_, rfl⟩ | ⟨i, _, hd, he⟩ | ⟨_, _, _, htxf, hw⟩
  · exact .refl _
  · exact exec_phaseRule_keepsData (decodePhase_isPhaseRule hd) he
  · refine (keepsData_popTxf htxf).andThen ?_
    rcases hw with ⟨_, _, w', rfl⟩ | ⟨_, _, _, _, rfl⟩ | ⟨_, w', rfl⟩ | ⟨_, w', rfl⟩
    · exact takeSimple_dataPart _ w'
    · rfl
    · exact takeStream0_dataPart _ w'
    · rfl

/-- Settles O55: each agent's turn keeps the data. -/
theorem stepKeepsData : Obligations.StepKeepsData := by
  intro s t h
  have hbegin : KeepsData s s.begin := .of_dataPart rfl
  obtain ⟨hmem, hfifos, herr, hoff⟩ : KeepsData s t := by
    rcases step_next h with ⟨_, h⟩ | ⟨_, h⟩ | ⟨_, h⟩ | ⟨_, h⟩
    · exact hbegin.trans (run_hostMove_keepsData h)
    · exact hbegin.trans (run_seqMove_keepsData h)
    · exact hbegin.trans (run_targetMove_keepsData h)
    · exact hbegin.trans (run_dmaMove_keepsData h)
  exact ⟨hmem, hfifos, herr, hoff⟩

end Sys2Proof.Machine
end

section
/-! PROOFS. Decoding and encoding are inverse: every well-formed instruction is decoded from its code (O1), every word is
encoded from its instruction (O2); the bytes of a descriptor (O5). -/

namespace Sys2Proof

/-! ### The word formats (30_encoding.md R96 to R103) -/

theorem word4_opcode_fields (op6 : BitVec 6) (cnt : BitVec 2) (b c d : Byte) :
    (word4 (op6 ++ cnt) b c d).extractLsb' 26 6 = op6 ∧ (word4 (op6 ++ cnt) b c d).extractLsb' 24 2 = cnt := by
  constructor <;> ext i hi <;> simp [word4] <;> grind

theorem decodeSimple_simpleWord {cfg : Config} {op6 : BitVec 6} {cnt : BitVec 2} (p0 p1 p2 : Byte)
    (h : op6 ++ cnt ≠ cfg.opNull) :
    decodeSimple cfg (word4 (op6 ++ cnt) p0 p1 p2) = .simpleWord op6 cnt p0 p1 p2 := by
  obtain ⟨hop, hcnt⟩ := word4_opcode_fields op6 cnt p0 p1 p2
  rw [decodeSimple, if_neg (by simpa using h), hop, hcnt]
  simp

theorem decodeSimple_null (cfg : Config) (x : BitVec 24) : decodeSimple cfg (cfg.opNull ++ x) = .null x := by
  rw [decodeSimple, if_pos (by simp)]
  exact congrArg Instr.null BitVec.extractLsb'_append_eq_right

theorem decodePrefix_append (wcount rcount : Half) : decodePrefix (wcount ++ rcount) = .extPrefix wcount rcount :=
  congrArg₂ Instr.extPrefix BitVec.extractLsb'_append_eq_left BitVec.extractLsb'_append_eq_right

theorem decodeStream_word4 (s0 s1 s2 s3 : Byte) : decodeStream (word4 s0 s1 s2 s3) = .extStreamWord s0 s1 s2 s3 := by
  simp [decodeStream]

theorem decodeStream0_null (cfg : Config) (x : BitVec 24) : decodeStream0 cfg (cfg.opNull ++ x) = .extNull x := by
  rw [decodeStream0, if_pos (by simp)]
  exact congrArg Instr.extNull BitVec.extractLsb'_append_eq_right

theorem decodeResp_respBits (nr : Bool) (data : Byte) : decodeResp (respBits nr data) = .respWord nr data := by
  refine congrArg₂ Instr.respWord ?_ BitVec.extractLsb'_append_eq_right
  exact (BitVec.getLsbD_append (x := BitVec.ofBool nr ++ 0#23) (y := data)).trans (by cases nr <;> rfl)

theorem decodeDesc_descBytes (src dst len : Half) (c0 c1 : Byte) :
    decodeDesc (descBytes src dst len c0 c1) = .ok (.dmaDescriptor src dst len c0 c1) := by
  simp [descBytes, decodeDesc]

/-! ### The commands of the target (30_encoding.md R108 to R112) -/

/-- Under distinct opcode bytes: the count and length bits are free, no two commands share an opcode byte, no command has
the opcode bits of a burst, and no two of the three debug instructions of one byte are the same. -/
structure Config.OpcodesApart (cfg : Config) : Prop where
  debugCount : cfg.opDebugInstr &&& 3#8 = 0#8
  burstLength : cfg.opBurstWrite &&& 7#8 = 0#8
  burstMax : cfg.burstMax ≤ 2047
  opcodes : [cfg.opChipErase, cfg.opWrConfig, cfg.opReadStatus, cfg.opGetChipId, cfg.opDebugInstr ||| 1#8,
    cfg.opDebugInstr ||| 2#8, cfg.opDebugInstr ||| 3#8].Nodup
  burst : ∀ op ∈ [cfg.opChipErase, cfg.opWrConfig, cfg.opReadStatus, cfg.opGetChipId, cfg.opDebugInstr],
    burstOp op ≠ cfg.opBurstWrite
  instrs : [cfg.iMovxSt, cfg.iMovxLd, cfg.iIncDptr].Nodup

theorem Config.opcodesDistinct_iff (cfg : Config) : cfg.opcodesDistinct = true ↔ cfg.OpcodesApart := by
  simp only [Config.opcodesDistinct, Bool.and_eq_true, beq_iff_eq, decide_eq_true_eq, List.all_eq_true, bne_iff_ne]
  exact ⟨fun ⟨⟨⟨⟨⟨hd, hb⟩, hm⟩, ho⟩, hburst⟩, hi⟩ => ⟨hd, hb, hm, ho, hburst, hi⟩,
    fun ⟨hd, hb, hm, ho, hburst, hi⟩ => ⟨⟨⟨⟨⟨hd, hb⟩, hm⟩, ho⟩, hburst⟩, hi⟩⟩

/-- The length bits of a burst's opcode byte do not tell it from another burst's. -/
theorem burstOp_or {op : Byte} (h : op &&& 7#8 = 0#8) {k : Nat} (hk : k < 8) :
    burstOp (op ||| BitVec.ofNat 8 k) = op ∧ (op ||| BitVec.ofNat 8 k).toNat % 8 = k := by
  revert k op; decide

/-- The count bits of a debug instruction are no opcode bits of a burst. -/
theorem burstOp_count (op : Byte) {k : Nat} (hk : k < 4) : burstOp (op ||| BitVec.ofNat 8 k) = burstOp op := by
  revert k op; decide

section Opcode
variable {cfg : Config} (h : cfg.OpcodesApart)
include h

/-- Each opcode byte that is not a burst's selects its command. -/
theorem decodeOpcode_fixed (pl : List Byte) :
    decodeOpcode cfg cfg.opChipErase pl = wantNone .chipErase pl ∧
      decodeOpcode cfg cfg.opWrConfig pl = wantOne .wrConfig pl ∧
      decodeOpcode cfg cfg.opReadStatus pl = wantNone .readStatus pl ∧
      decodeOpcode cfg cfg.opGetChipId pl = wantNone .getChipId pl ∧
      decodeOpcode cfg (cfg.opDebugInstr ||| 1#8) pl = wantOne (decodeInstr1 cfg) pl ∧
      decodeOpcode cfg (cfg.opDebugInstr ||| 2#8) pl = wantTwo (decodeInstr2 cfg) pl ∧
      decodeOpcode cfg (cfg.opDebugInstr ||| 3#8) pl = wantThree (decodeInstr3 cfg) pl := by
  have hne := h.opcodes
  simp only [List.nodup_cons, List.mem_cons, List.not_mem_nil, not_or, or_false] at hne
  obtain ⟨⟨_, _, _, _, _, _⟩, ⟨_, _, _, _, _⟩, ⟨_, _, _, _⟩, ⟨_, _, _⟩, ⟨_, _⟩, _, _⟩ := hne
  refine ⟨?_, ?_, ?_, ?_, ?_, ?_, ?_⟩ <;> simp [decodeOpcode, *, Ne.symm]

/-- An opcode byte with a burst's opcode bits is none of the others. -/
theorem decodeOpcode_burst {op : Byte} (pl : List Byte) (hop : burstOp op = cfg.opBurstWrite) :
    decodeOpcode cfg op pl = decodeBurst op pl := by
  obtain ⟨hbase, _⟩ := burstOp_or h.burstLength (k := 0) (by decide)
  rw [BitVec.or_zero] at hbase
  have hne : ∀ op' : Byte, burstOp op' ≠ cfg.opBurstWrite → op ≠ op' := fun op' h' he => h' (he ▸ hop)
  have hb := h.burst
  simp only [List.forall_mem_cons] at hb
  obtain ⟨herase, hconfig, hstatus, hid, hdebug, _⟩ := hb
  have hcount : ∀ k : Nat, k < 4 → op ≠ cfg.opDebugInstr ||| BitVec.ofNat 8 k :=
    fun k hk => hne _ (by rwa [burstOp_count _ hk])
  rw [decodeOpcode, if_neg (hne _ herase), if_neg (hne _ hconfig), if_neg (hne _ hstatus), if_neg (hne _ hid),
    if_neg (hcount 1 (by decide)), if_neg (hcount 2 (by decide)), if_neg (hcount 3 (by decide)),
    if_pos (hop.trans hbase.symm)]

/-- A burst declares its length in three bits of its opcode byte and in its first payload byte. -/
theorem decodeCommand_burstBytes {data : List Byte} (hlen : data.length ≤ cfg.burstMax) :
    decodeCommand cfg (burstBytes cfg data) = .ok (.burstWrite data) := by
  have hmax := h.burstMax
  have hk : data.length / 256 < 8 := by omega
  obtain ⟨hop, hbits⟩ := burstOp_or h.burstLength hk
  have hdeclared : data.length =
      burstLength (cfg.opBurstWrite ||| BitVec.ofNat 8 (data.length / 256)) (BitVec.ofNat 8 data.length) := by
    rw [burstLength, hbits, BitVec.toNat_ofNat]
    omega
  rw [burstBytes, decodeCommand, decodeOpcode_burst h _ hop, decodeBurst, if_pos hdeclared]

/-- Each debug instruction of one byte is known by that byte. -/
theorem decodeInstr1_fixed :
    decodeInstr1 cfg cfg.iMovxSt = .tMovxSt ∧ decodeInstr1 cfg cfg.iMovxLd = .tMovxLd ∧
      decodeInstr1 cfg cfg.iIncDptr = .tIncDptr := by
  have hne := h.instrs
  simp only [List.nodup_cons, List.mem_cons, List.not_mem_nil, not_or, or_false] at hne
  obtain ⟨⟨_, _⟩, _, _⟩ := hne
  refine ⟨if_pos rfl, ?_, ?_⟩ <;> simp [decodeInstr1, *, Ne.symm]

end Opcode

/-- A descriptor the decoder accepts has eight bytes, and its fields keep them all (30_encoding.md R106). -/
theorem encode_of_decodeDesc (cfg : Config) {bytes : List Byte} {i : Instr} (h : decodeDesc bytes = .ok i) :
    encode cfg i = .desc bytes := by
  unfold decodeDesc at h
  split at h
  · obtain rfl := Except.ok.inj h
    simp [encode, descBytes]
  · cases h

/-- The two counts of the first word of an extended frame make the word (30_encoding.md R100). -/
theorem append_counts (w : Word) : (w.extractLsb' 16 16 ++ w.extractLsb' 0 16 : Word) = w := by
  ext i hi; simp; grind

/-- A response word is its not-ready bit and its data, but for the bits that are ignored (30_encoding.md R103). -/
theorem respBits_fields (w : Word) : respBits (w.getLsbD 31) (w.extractLsb' 0 8) = w &&& 0x800000FF#32 := by
  ext i hi
  have hmask : (0x800000FF#32).getLsbD i = (decide (i < 8) || decide (i = 31)) := by revert i; decide
  rw [BitVec.getElem_and, ← BitVec.getLsbD_eq_getElem (x := 0x800000FF#32), hmask]
  simp [respBits]
  grind

/-! ### Every instruction -/

/-- An XDATA address fits the argument of an operation (30_encoding.md R120). -/
theorem address_fits (a : Half) (f : Half → Instr) :
    (if a.toNat < 65536 then .ok (f (BitVec.ofNat 16 a.toNat)) else .error .operandRange : Except Reject Instr) =
      .ok (f a) := by
  rw [if_pos a.isLt, BitVec.ofNat_toNat, BitVec.setWidth_eq]

/-- The code of a well-formed instruction holds its operands, in the format of its row. -/
theorem decode_encode {cfg : Config} {i : Instr} (h : cfg.OpcodesApart) (hi : wellFormed cfg i = true) :
    decode cfg (encode cfg i) = .ok i := by
  have hfixed := decodeOpcode_fixed h
  simp only [forall_and] at hfixed
  obtain ⟨herase, hconfig, hstatus, hid, hone, htwo, hthree⟩ := hfixed
  obtain ⟨hst, hld, hinc⟩ := decodeInstr1_fixed h
  cases i
  case alWrite a v => exact address_fits a (.alWrite · v)
  case alRead a => exact address_fits a .alRead
  case alWriteBlock a bs => exact address_fits a (.alWriteBlock · bs)
  case simpleWord => exact congrArg Except.ok (decodeSimple_simpleWord _ _ _ (bne_iff_ne.1 hi))
  case null => exact congrArg Except.ok (decodeSimple_null _ _)
  case extPrefix => exact congrArg Except.ok (decodePrefix_append _ _)
  case extStreamWord => exact congrArg Except.ok (decodeStream_word4 _ _ _ _)
  case extNull => exact congrArg Except.ok (decodeStream0_null _ _)
  case respWord => exact congrArg Except.ok (decodeResp_respBits _ _)
  case dmaDescriptor => exact decodeDesc_descBytes _ _ _ _ _
  case chipErase => exact herase _
  case wrConfig => exact hconfig _
  case readStatus => exact hstatus _
  case getChipId => exact hid _
  case tMovxSt => exact (hone _).trans (congrArg Except.ok hst)
  case tMovxLd => exact (hone _).trans (congrArg Except.ok hld)
  case tIncDptr => exact (hone _).trans (congrArg Except.ok hinc)
  case tMovA => exact (htwo _).trans (congrArg Except.ok (if_pos rfl))
  case tMovDptr a => exact (hthree _).trans (congrArg Except.ok ((if_pos rfl).trans (by rw [be16_hi_lo])))
  case debugInstr1 i0 =>
    simp only [wellFormed, Bool.and_eq_true, bne_iff_ne] at hi
    obtain ⟨⟨hst', hld'⟩, hinc'⟩ := hi
    refine (hone _).trans (congrArg Except.ok ?_)
    rw [decodeInstr1, if_neg hst', if_neg hld', if_neg hinc']
  case debugInstr2 => exact (htwo _).trans (congrArg Except.ok (if_neg (bne_iff_ne.1 hi)))
  case debugInstr3 => exact (hthree _).trans (congrArg Except.ok (if_neg (bne_iff_ne.1 hi)))
  case burstWrite =>
    simp only [wellFormed, Bool.and_eq_true, decide_eq_true_eq] at hi
    obtain ⟨_, hmax⟩ := hi
    exact decodeCommand_burstBytes h hmax
  all_goals rfl

/-- Settles O1: distinct opcode bytes are apart, and each format holds its operands. -/
theorem decodeEncode : Obligations.DecodeEncode :=
  fun cfg _ h hi => decode_encode (cfg.opcodesDistinct_iff.1 h) hi

/-! ### Every word -/

/-- Settles O2: the fields of each word format make the word again. -/
theorem encodeDecodeWords : Obligations.EncodeDecodeWords := by
  intro cfg w
  refine ⟨?simple, congrArg Code.extPrefix (append_counts w), congrArg Code.extStream (word4_wordByte w),
    fun hnull => ?null, congrArg Code.resp (respBits_fields w), fun bytes i hd => ?desc⟩
  case simple =>
    by_cases hnull : wordByte w 0 = cfg.opNull
    · rw [decodeSimple, if_pos hnull]
      exact congrArg Code.simple (null_word w hnull)
    · rw [decodeSimple, if_neg hnull]
      exact congrArg Code.simple (word4_fields w)
  case null =>
    rw [decodeStream0, if_pos hnull]
    exact congrArg Code.extStream0 (null_word w hnull)
  case desc => exact encode_of_decodeDesc cfg hd

/-- Settles O5: the bytes of each descriptor, computed. -/
theorem descriptorBytes : Obligations.DescriptorBytes :=
  ⟨fun _ _ _ _ _ => rfl, fun _ _ => ⟨rfl, rfl⟩, rfl, rfl⟩

end Sys2Proof
end

section
/-! PROOFS. The words of a frame, and the frames the encoder refuses (O4). -/

namespace Sys2Proof

/-! ### A stream of bytes in words (30_encoding.md R101) -/

/-- The four bytes of a word in wire order. -/
def wordBytes (w : Word) : List Byte := [wordByte w 0, wordByte w 1, wordByte w 2, wordByte w 3]

@[simp] theorem wordBytes_word4 (a b c d : Byte) : wordBytes (word4 a b c d) = [a, b, c, d] := by simp [wordBytes]

theorem packWords_length (bs : List Byte) : (packWords bs).length = (bs.length + 3) / 4 := by
  induction bs using packWords.induct with
  | case1 | case2 | case3 | case4 => simp [packWords]
  | case5 a b c d rest ih =>
    simp only [packWords, List.length_cons, ih]
    omega

/-- The words of a stream hold its bytes in order, and zeros after them. -/
theorem packWords_bytes (bs : List Byte) :
    (packWords bs).flatMap wordBytes = bs ++ List.replicate (4 * (packWords bs).length - bs.length) 0#8 := by
  induction bs using packWords.induct with
  | case1 | case2 | case3 | case4 => simp [packWords]
  | case5 a b c d rest ih =>
    have hpad : 4 * ((packWords rest).length + 1) - (rest.length + 1 + 1 + 1 + 1) =
        4 * (packWords rest).length - rest.length := by omega
    simp [packWords, ih, hpad]

/-! ### The frames that encode (30_encoding.md R113) -/

theorem countBits_eq (op : Byte) : countBits op = (op &&& 3#8).toNat := by revert op; decide

theorem encodable_simple_iff (cfg : Config) (op : Byte) (payload : List Byte) (rcount : Nat) :
    Frame.encodable cfg { kind := .simple, op := op, payload := payload, rcount := rcount } = true ↔
      payload.length = (op &&& 3#8).toNat ∧ rcount = 1 := by
  simp [Frame.encodable, countBits_eq]

theorem burstFits_iff (cfg : Config) (op : Byte) (payload : List Byte) :
    burstFits cfg op payload = true ↔
      op &&& 0xF8#8 ≠ cfg.opBurstWrite &&& 0xF8#8 ∨ (2 ≤ payload.length ∧ payload.length ≤ cfg.burstMax + 1) := by
  simp [burstFits, burstOp]

theorem encodable_ext_iff (cfg : Config) (op : Byte) (payload : List Byte) (rcount : Nat) :
    Frame.encodable cfg { kind := .ext, op := op, payload := payload, rcount := rcount } = true ↔
      (op ≠ cfg.opNull ∨ payload = []) ∧ payload.length ≤ 65535 ∧ rcount ≤ 65535 ∧
        (op &&& 0xF8#8 ≠ cfg.opBurstWrite &&& 0xF8#8 ∨ (2 ≤ payload.length ∧ payload.length ≤ cfg.burstMax + 1)) := by
  simp only [Frame.encodable, ← burstFits_iff, Bool.and_eq_true, Bool.or_eq_true, decide_eq_true_eq, bne_iff_ne,
    List.isEmpty_iff, and_assoc]
  rfl

theorem words_of_encodable {cfg : Config} {f : Frame} (h : f.encodable cfg = true) :
    f.words cfg = some (match f.kind with
      | .simple => [encSimple f.op f.payload]
      | .ext => encExt f.op f.payload f.rcount) := if_pos h

theorem words_of_not_encodable {cfg : Config} {f : Frame} (h : ¬ f.encodable cfg = true) : f.words cfg = none :=
  if_neg h

/-- Settles O4: which frames encode, and the bytes of the words they encode to. -/
theorem frameWords : Obligations.FrameWords := by
  intro cfg op payload rcount
  refine ⟨fun hlen hr => ?simple, fun hno => ?simpleRefused, fun hnull hburst hlen hr => ?ext, fun hno => ?extRefused⟩
  case simple => exact words_of_encodable ((encodable_simple_iff cfg op payload rcount).2 ⟨hlen, hr⟩)
  case simpleRefused =>
    refine words_of_not_encodable fun h => ?_
    obtain ⟨hlen, hr⟩ := (encodable_simple_iff cfg op payload rcount).1 h
    exact hno.elim (· hlen) (· hr)
  case ext =>
    have hok := (encodable_ext_iff cfg op payload rcount).2 ⟨hnull, hlen, hr, hburst.imp_right (by omega)⟩
    have hstream := packWords_length (op :: payload)
    rw [List.length_cons, Nat.add_comm payload.length] at hstream
    refine ⟨packWords (op :: payload), words_of_encodable hok, hstream, ?_⟩
    rw [Nat.add_comm 1]
    exact packWords_bytes (op :: payload)
  case extRefused =>
    refine words_of_not_encodable fun h => ?_
    obtain ⟨hnull, hlen, hr, hburst⟩ := (encodable_ext_iff cfg op payload rcount).1 h
    obtain ⟨hop, hpl⟩ | hlen' | hr' | ⟨hop, hbad⟩ := hno
    · exact hnull.elim (· hop) hpl
    · omega
    · omega
    · obtain hop' | hfit := hburst
      · exact hop' hop
      · omega

end Sys2Proof
end

section
/-! PROOFS. The words the sequencer pops: what each does (O20), and that it does what the rule of its phase says (O10). -/

namespace Sys2Proof.Machine

/-! ### Words taken (40_link_engine.md R150 to R152, R158) -/

/-- A response word popped is kept, decoded. -/
theorem exec_respWord (nr : Bool) (data : Byte) (s : State) :
    exec (.respWord nr data) s = .next { s with ws := s.ws ++ [⟨nr, data⟩] } := rfl

theorem exec_extStreamWord_first {s : State} (s0 s1 s2 s3 : Byte) (h : s.phase ≠ .cRefill) :
    exec (.extStreamWord s0 s1 s2 s3) s = .next (s.takeStream0 (word4 s0 s1 s2 s3)) :=
  congrArg Host.Outcome.next (if_neg h)

theorem exec_extStreamWord_later {s : State} (s0 s1 s2 s3 : Byte) (h : s.phase = .cRefill) :
    exec (.extStreamWord s0 s1 s2 s3) s = .next (s.takeStream (word4 s0 s1 s2 s3)) :=
  congrArg Host.Outcome.next (if_pos h)

/-- A word whose first byte is the null opcode is that byte and the ignored bits. -/
theorem word4_null (op p0 p1 p2 : Byte) : word4 op p0 p1 p2 = op ++ (p0 ++ p1 ++ p2) := by
  rw [word4, BitVec.append_assoc, BitVec.append_assoc, BitVec.append_assoc]; rfl

/-- Settles O20: the opcode byte tells the null frame, the phase the first stream word. -/
theorem wordsTaken : Obligations.WordsTaken := by
  intro s
  refine ⟨fun op6 cnt p0 p1 p2 hop => ?simple, fun op6 cnt p0 p1 p2 hop => ?simpleNull, fun x => ?null,
    fun _ _ => rfl, fun s0 s1 s2 s3 hp => exec_extStreamWord_later s0 s1 s2 s3 hp,
    fun s0 s1 s2 s3 hp hop => ?stream, fun s1 s2 s3 hp => ?streamNull, fun x => ?extNull,
    fun nr data => exec_respWord nr data s⟩
  case simple =>
    refine congrArg Host.Outcome.next ((takeSimple_command ?_).trans ?_)
    · rwa [wordByte_word4_0]
    · rw [wordByte_word4_0]; rfl
  case simpleNull =>
    refine congrArg (fun w => Host.Outcome.next (s.takeSimple w)) ?_
    rw [hop, word4_null]
  case null => exact congrArg Host.Outcome.next (takeSimple_null (wordByte_null _ _))
  case stream =>
    refine (exec_extStreamWord_first s0 s1 s2 s3 hp).trans
      (congrArg Host.Outcome.next ((takeStream0_command ?_).trans ?_))
    · rwa [wordByte_word4_0]
    · rw [wordByte_word4_0]; rfl
  case streamNull =>
    refine (exec_extStreamWord_first _ s1 s2 s3 hp).trans ?_
    rw [word4_null]
    rfl
  case extNull => exact congrArg Host.Outcome.next (takeStream0_null (wordByte_null _ _))

/-! ### A word popped and the rule of its phase -/

/-- A word read in the format of its phase is taken as the rule of the phase takes it. -/
theorem exec_decodeSimple (s : State) (w : Word) : exec (decodeSimple s.cfg w) s = .next (s.takeSimple w) := by
  by_cases h : wordByte w 0 = s.cfg.opNull
  · rw [decodeSimple, if_pos h]
    exact congrArg (fun w => Host.Outcome.next (s.takeSimple w)) (null_word w h)
  · rw [decodeSimple, if_neg h]
    exact congrArg (fun w => Host.Outcome.next (s.takeSimple w)) (word4_fields w)

theorem exec_decodeStream0 {s : State} (hp : s.phase ≠ .cRefill) (w : Word) :
    exec (decodeStream0 s.cfg w) s = .next (s.takeStream0 w) := by
  by_cases h : wordByte w 0 = s.cfg.opNull
  · rw [decodeStream0, if_pos h]
    exact congrArg (fun w => Host.Outcome.next (s.takeStream0 w)) (null_word w h)
  · rw [decodeStream0, if_neg h, decodeStream, exec_extStreamWord_first _ _ _ _ hp, word4_wordByte]

theorem exec_decodeStream {s : State} (hp : s.phase = .cRefill) (w : Word) :
    exec (decodeStream w) s = .next (s.takeStream w) := by
  rw [decodeStream, exec_extStreamWord_later _ _ _ _ hp, word4_wordByte]

/-- Settles O10: the sequencer runs the rule of its phase, or takes the word as that rule does. -/
theorem fetchedWordIsPhaseRule : Obligations.FetchedWordIsPhaseRule := by
  intro s i hl hd
  rcases seqMove_cases s with ⟨hl', _⟩ | ⟨_, hm⟩ | ⟨w, rest, _, htxf, hw⟩
  · exact absurd hl hl'
  · rw [hm]
    exact run_code_ok hd
  · obtain ⟨hsimple, hext, hfetch, hrefill⟩ := exec_fetch_word htxf
    rcases hw with ⟨hp, hv, hm⟩ | ⟨hp, hv, hm⟩ | ⟨hp, hv, hm⟩ | ⟨hp, hv, hm⟩ <;>
      rw [hp, hv] at hd <;> obtain rfl := Except.ok.inj hd <;> rw [hm, run_code_ok rfl]
    · rw [hsimple]; exact exec_decodeSimple { s with txf := rest } w
    · rw [hext]; rfl
    · rw [hfetch]; exact exec_decodeStream0 (s := { s with txf := rest }) (by simp [hp]) w
    · rw [hrefill]; exact exec_decodeStream (s := { s with txf := rest }) hp w

end Sys2Proof.Machine
end

section
/-! PROOFS. The start of an exchange (O28). -/

namespace Sys2Proof.Machine

/-- A switch of the variant keeps the timers and the tasks. -/
theorem State.switch_context (s : State) (v : Variant) :
    (s.switch v).tmo = s.tmo ∧ (s.switch v).tasks = s.tasks ∧ (s.switch v).cfg = s.cfg ∧
      (s.switch v).result = s.result := by
  rw [s.switch_frame v]; exact ⟨rfl, rfl, rfl, rfl⟩

/-- An exchange of a frame that encodes (41_command_protocol.md R186, R189). -/
theorem exec_cpXchg_encodes {s : State} {f : Frame} {ws : List Word} (ho : s.owner = .held)
    (hw : f.words s.cfg = some ws) :
    exec (.cpXchg f) s = .next { s.switch (variantOf f.kind) with
      tmo := { (s.switch (variantOf f.kind)).tmo with ceiling := s.cfg.timeoutCeiling, expired := false }
      ws := []
      tasks := [.send ws, .await f] ++ s.tasks
      result := s.result } := by
  obtain ⟨_, htasks, hcfg, hres⟩ := s.switch_context (variantOf f.kind)
  have hf : f.encodable s.cfg = true := by
    by_contra h
    rw [words_of_not_encodable h] at hw
    cases hw
  refine (issue_accepted _ _ (Bool.and_eq_true_iff.2 ⟨s.held_eq_true.2 ho, hf⟩)).trans ?_
  rw [hw, ← htasks, ← hcfg, ← hres]
  rfl

/-- Settles O28: the switch, the timer and the two tasks, or the refusal. -/
theorem exchangeBegins : Obligations.ExchangeBegins := by
  intro s f ho
  refine ⟨fun ws hw => ⟨(s.switch (variantOf f.kind)).ret .unit, ?switch, exec_cpXchg_encodes ho hw⟩,
    fun hw => issue_refused _ _ ?refused⟩
  case switch =>
    have hv : variantOf f.kind ≠ .vNone := by cases f.kind <;> exact nofun
    refine Eq.trans ?_ (issue_accepted s ((s.switch (variantOf f.kind)).ret .unit)
      (Bool.and_eq_true_iff.2 ⟨s.held_eq_true.2 ho, bne_iff_ne.2 hv⟩))
    cases f.kind <;> rfl
  case refused =>
    rw [Bool.and_eq_false_iff]
    refine .inr (Bool.eq_false_iff.2 fun h => ?_)
    rw [words_of_encodable h] at hw
    cases hw

end Sys2Proof.Machine
end

section
/-! PROOFS. The five emulated instructions on a target in debug mode (O45). -/

namespace Sys2Proof.Machine

/-! ### What a store leaves (20_memory.md R69) -/

/-- The side effects of a store leave pointer, accumulator and configuration byte. -/
theorem Target.stored_registers (t : Target) (cfg : Config) (a : Half) (v : Byte) :
    (t.stored cfg a v).dptr = t.dptr ∧ (t.stored cfg a v).acc = t.acc ∧ (t.stored cfg a v).config = t.config := by
  unfold Target.stored Target.armStored Target.delivered
  repeat' split
  all_goals exact ⟨rfl, rfl, rfl⟩

/-- A store loses sight of XDATA only in the debug-data buffer, and there only where channel A is not known to take the
byte. -/
theorem Target.stored_xdata {t : Target} {cfg : Config} {a : Half} (v : Byte)
    (h : a ≠ cfg.addrDbgdata ∨ (t.armedA = true ∧ t.config = cfg.configEnableDma)) :
    (t.stored cfg a v).xdata = t.xdata := by
  unfold Target.stored
  split
  · rw [Target.armStored_frame]
  · split
    · split <;> rfl
    · split
      · rfl
      · split
        · rename_i ha
          obtain h | ⟨hA, hc⟩ := h
          · exact absurd ha h
          · rw [Target.delivered_armed _ hA hc]
        · rfl

/-! ### What a load finds (20_memory.md R74) -/

theorem inRegion_window (cfg : Config) (a : Half) :
    inRegion cfg.bankWindowBase bankSize a.toNat = true ↔
      cfg.bankWindowBase.toNat ≤ a.toNat ∧ a.toNat < cfg.bankWindowBase.toNat + 32768 := by
  rw [inRegion, Bool.and_eq_true, decide_eq_true_iff, decide_eq_true_iff]; rfl

/-- In the bank window, the flash byte of the selected bank. -/
theorem Target.loaded_window {t : Target} {cfg : Config} {a : Half} {m c : Byte}
    (hlo : cfg.bankWindowBase.toNat ≤ a.toNat) (hhi : a.toNat < cfg.bankWindowBase.toNat + 32768)
    (hm : t.xdata.read cfg.addrMemctr.toNat = some m)
    (hc : t.flash.read (m.toNat * 32768 + (a.toNat - cfg.bankWindowBase.toNat)) = some c) :
    t.loaded cfg a = some c := by
  rw [Target.loaded, if_pos ((inRegion_window cfg a).2 ⟨hlo, hhi⟩), hm]
  exact hc

/-- Outside the window and the registers, the byte stored. -/
theorem Target.loaded_stored {t : Target} {cfg : Config} {a : Half} {c : Byte}
    (hout : a.toNat < cfg.bankWindowBase.toNat ∨ cfg.bankWindowBase.toNat + 32768 ≤ a.toNat)
    (hreg : a ∉ registerAddresses cfg) (hc : t.xdata.read a.toNat = some c) : t.loaded cfg a = some c := by
  rw [Target.loaded, if_neg (by rw [inRegion_window]; omega), if_neg hreg, hc]

/-- Settles O45: each instruction is a command with its effect, and its response byte. -/
theorem emulatedInstructions : Obligations.EmulatedInstructions := by
  intro s a v h
  refine ⟨⟨s.anyByte, exec_command_inDebug h rfl rfl⟩, ⟨s.anyByte, exec_command_inDebug h rfl rfl⟩,
    ⟨s.anyByte, _, exec_tMovxSt_eq h rfl, rfl, ?stored, ?registers⟩,
    ⟨(s.target.loaded s.cfg s.target.dptr).getD s.anyByte, exec_command_inDebug h rfl rfl, ?window, ?outside⟩,
    ⟨s.anyByte, _, exec_command_inDebug h rfl rfl, fun hp => if_neg hp⟩⟩
  case stored => exact fun hno => Target.stored_xdata (t := s.target.withStore) _ hno
  case registers => exact s.target.withStore.stored_registers _ _ _
  case window => exact fun m c hlo hhi hm hc => by rw [Target.loaded_window hlo hhi hm hc]; rfl
  case outside => exact fun c hout hreg hc => by rw [Target.loaded_stored hout hreg hc]; rfl

end Sys2Proof.Machine
end

section
/-! PROOFS. Runs of the sequencer: from a state to another in a number of its turns. -/

namespace Sys2Proof.Machine

/-- The state with another step counter and another list of turns. -/
def State.withTurns (s : State) (n : Nat) (ts : List Agent) : State := { s with clock := n, turns := ts }

/-- With `k` turns of the sequencer next, `s` comes to `t` in `k` steps, whatever the counter and the turns after them. -/
def Ticks (k : Nat) (s t : State) : Prop :=
  ∀ (n : Nat) (ts : List Agent),
    core.run k (s.withTurns n (List.replicate k .sequencer ++ ts)) = .next (t.withTurns (n + k) ts)

theorem run_add {s t u : State} {m n : Nat} (h : core.run m s = .next t) (h' : core.run n t = .next u) :
    core.run (m + n) s = .next u := by
  induction m generalizing s with
  | zero =>
    obtain rfl := Host.Outcome.next.inj h
    rwa [Nat.zero_add]
  | succ m ih =>
    rw [Nat.succ_add]
    simp only [Host.Core.run] at h ⊢
    cases hs : core.step s with
    | next v => rw [hs] at h; exact ih h
    | fault r => rw [hs] at h; cases h
    | refused r => rw [hs] at h; cases h

theorem run_one {s t : State} (h : step s = .next t) : core.run 1 s = .next t := by
  have hs : core.step s = .next t := h
  show core.run (0 + 1) s = .next t
  simp only [Host.Core.run, hs]

theorem Ticks.trans {s t u : State} {m n : Nat} (h : Ticks m s t) (h' : Ticks n t u) : Ticks (m + n) s u := by
  intro k ts
  rw [List.replicate_add, List.append_assoc, ← Nat.add_assoc]
  exact run_add (h k _) (h' (k + m) ts)

theorem Ticks.refl (s : State) : Ticks 0 s s := fun _ _ => rfl

theorem Ticks.cast {s t : State} {m n : Nat} (h : m = n) (ht : Ticks m s t) : Ticks n s t := h ▸ ht

/-- A run in a state with its turns listed. -/
theorem Ticks.run {s t : State} {k : Nat} {ts : List Agent} (h : Ticks k s t)
    (hs : s.turns = List.replicate k .sequencer ++ ts) : core.run k s = .next (t.withTurns (s.clock + k) ts) := by
  have := h s.clock ts
  rwa [← hs] at this

/-- In its turn the sequencer runs the rule of its phase (10_state.md R28, 40_link_engine.md R130). -/
theorem step_rule {s : State} (hm : s.mover = .sequencer) (hl : s.life = .running)
    (hv : s.variant.has s.phase = true) : step s = exec (ruleOf s.variant s.phase) s.begin := by
  rw [step_sequencer hm]
  exact fetchedWordIsPhaseRule s.begin _ hl (decodePhase_code hv)

/-- One turn: a rule that answers `t` whatever the counter and the turns. -/
theorem Ticks.rule {s t : State} (hl : s.life = .running) (hv : s.variant.has s.phase = true)
    (he : ∀ (n : Nat) (ts : List Agent), exec (ruleOf s.variant s.phase) (s.withTurns n ts) = .next (t.withTurns n ts)) :
    Ticks 1 s t := by
  intro n ts
  have hstep : step (s.withTurns n (.sequencer :: ts)) = .next (t.withTurns (n + 1) ts) :=
    (step_rule (s := s.withTurns n (.sequencer :: ts)) rfl hl hv).trans (he (n + 1) ts)
  exact run_one hstep

end Sys2Proof.Machine
end

section
/-! PROOFS. A frame on the wire: the bits of a byte, the bytes of a frame, and the frame the target takes (O25, O26). -/

namespace Sys2Proof.Machine

/-! ### The end of a transmitted bit (40_link_engine.md R157) -/

section TransmitLow
variable {s : State} (hb : s.rdBitcnt = 1#4)
include hb

theorem exec_cTxlo_op (hg : s.rdTxseg = .segOp) (hv : s.variant = .vSimple) :
    exec .cTxlo s = .next { s.setDc false with txseg := Reg.of .segCnt, bitcnt := Reg.of 2#4, phase := .cTxset } := by
  simp [exec, execCTxlo, hb, hg, hv]

theorem exec_cTxlo_header (hg : s.rdTxseg = .segCnt ∨ (s.rdTxseg = .segOp ∧ s.variant ≠ .vSimple)) :
    exec .cTxlo s = .next
      ({ s.setDc false with bitcnt := Reg.of 0#4, osrb := Reg.of 3#3 }.nextByte s.rdWcnt 3#3) := by
  obtain hg | ⟨hg, hv⟩ := hg
  · simp [exec, execCTxlo, hb, hg]
  · simp [exec, execCTxlo, hb, hg, hv]

theorem exec_cTxlo_data (hg : s.rdTxseg = .segData) :
    exec .cTxlo s = .next
      ({ s.setDc false with
        bitcnt := Reg.of 0#4, osrb := Reg.of (s.rdOsrb - 1#3), wcnt := Reg.of (s.rdWcnt - 1#16) }.nextByte
          (s.rdWcnt - 1#16) (s.rdOsrb - 1#3)) := by
  simp [exec, execCTxlo, hb, hg]

end TransmitLow

/-! ### The engine while it sends -/

/-- The pin levels with reset high. -/
def linePins (strobe data : Bool) : BitVec 3 := BitVec.ofBool true ++ BitVec.ofBool strobe ++ BitVec.ofBool data

theorem linePins_of_levels {v : BitVec 3} (hdc : dcOf v = false) (hrst : rstnOf v = true) :
    v = linePins false (ddOf v) := by
  revert v; decide

@[simp] theorem ddOf_linePins (strobe data : Bool) : ddOf (linePins strobe data) = data := by
  revert strobe data; decide
@[simp] theorem dcOf_linePins (strobe data : Bool) : dcOf (linePins strobe data) = strobe := by
  revert strobe data; decide
@[simp] theorem rstnOf_linePins (strobe data : Bool) : rstnOf (linePins strobe data) = true := by
  revert strobe data; decide

theorem setLine_data_linePins (strobe data b : Bool) : setLine (linePins strobe data) 0 b = linePins strobe b := by
  revert strobe data b; decide

theorem setLine_strobe_linePins (strobe data b : Bool) : setLine (linePins strobe data) 1 b = linePins b data := by
  revert strobe data b; decide

/-! ### What the target sees of a frame (20_memory.md R79) -/

/-- Nothing, while the strobe does not fall and the driver stays. -/
theorem Target.sees_noFall (t : Target) (n : Nat) {strobe strobe' : Bool} (a b : Bool) (oe : BitVec 3)
    (h : strobe = true → strobe' = true) :
    t.sees n (linePins strobe a) oe (linePins strobe' b) oe = t := by
  cases strobe <;> cases strobe' <;> simp_all [Target.sees]

/-- One bit at the strobe's fall while the block drives the line. -/
theorem Target.sees_bit (t : Target) (n : Nat) (a b : Bool) (oe : BitVec 3) {oe' : BitVec 3} (h : ddOf oe' = true) :
    t.sees n (linePins true a) oe (linePins false b) oe' = { t with bits := t.bits ++ [b] } := by
  simp [Target.sees, h]

/-- No bit where it does not. -/
theorem Target.sees_noBit (t : Target) (n : Nat) (a b : Bool) (oe : BitVec 3) {oe' : BitVec 3} (h : ddOf oe' = false) :
    t.sees n (linePins true a) oe (linePins false b) oe' = t := by
  simp [Target.sees, h]

/-- The frame, where the driver goes off. -/
theorem Target.sees_frame (t : Target) (n : Nat) (a b : Bool) {oe oe' : BitVec 3} (hoe : ddOf oe = true)
    (hoe' : ddOf oe' = false) (hbits : t.bits ≠ []) :
    t.sees n (linePins false a) oe (linePins false b) oe' =
      { t with inbox := t.inbox ++ [packBits t.bits], bits := [] } := by
  simp [Target.sees, hoe, hoe', hbits]

/-- The start of one, where it goes on. -/
theorem Target.sees_driven (t : Target) (n : Nat) (a b : Bool) {oe oe' : BitVec 3} (hoe' : ddOf oe' = true) :
    t.sees n (linePins false a) oe (linePins false b) oe' = t := by
  simp [Target.sees, hoe']

/-- What changes while a frame is sent: the registers of the frame (10_state.md R29), TXF, the level of the data line and
the bits the target has taken. -/
structure Sender where
  osr : Word
  seg : Seg
  bitcnt : BitVec 4
  wcnt : Half
  osrb : Reg (BitVec 3)
  txf : List Word
  line : Bool
  bits : List Bool

/-- The engine of `s` at a phase of the frame, its pins as the phase has them (40_link_engine.md R168). -/
def State.sendingAt (s : State) (p : Phase) (x : Sender) : State :=
  { s with
    phase := p, pinsOut := linePins p.strobeHigh x.line, pinsOe := 0b111#3, osr := Reg.of x.osr, txseg := Reg.of x.seg
    bitcnt := Reg.of x.bitcnt, wcnt := Reg.of x.wcnt, osrb := x.osrb, txf := x.txf
    target := { s.target with bits := x.bits } }

/-- The next bit is put on the line (40_link_engine.md R154). -/
def Sender.shifted (x : Sender) : Sender :=
  { x with
    osr := x.osr <<< 1
    wcnt := if x.seg = .segCnt then (x.wcnt <<< 1) ||| (BitVec.ofBool (x.osr.getLsbD 31)).zeroExtend 16 else x.wcnt
    line := x.osr.getLsbD 31 }

/-- The target takes the bit at the strobe's fall (20_memory.md R79). -/
def Sender.taken (x : Sender) : Sender := { x with bitcnt := x.bitcnt - 1#4, bits := x.bits ++ [x.line] }

/-- After the last bit of a byte, with `o` unsent bytes in OSR: the next byte, or the end of the frame (40_link_engine.md
R157). -/
def State.byteEnd (s : State) (x : Sender) (o : BitVec 3) : State :=
  if x.wcnt = 0#16 then s.sendingAt .cDirin { x with osrb := Reg.of o }
  else s.sendingAt (if o = 0#3 then .cRefill else .cTxset) { x with osrb := Reg.of o, seg := .segData, bitcnt := 8#4 }

/-- The engine runs a variant of the command program. -/
structure State.RunsCommand (s : State) : Prop where
  life : s.life = .running
  variant : s.variant = .vSimple ∨ s.variant = .vExt

theorem State.RunsCommand.has {s : State} (hs : s.RunsCommand) {p : Phase} (hp : Variant.vSimple.has p = true) :
    s.variant.has p = true := by
  obtain hv | hv := hs.variant <;> rw [hv]
  · exact hp
  · exact Variant.has_command (p := .cTxset) rfl hp rfl

/-- The pins driven, given what the target sees of it. -/
theorem State.drive_eq {s : State} {out out' oe : BitVec 3} {t : Target} (hout : out = out')
    (h : s.target.sees s.clock s.pinsOut s.pinsOe out' oe = t) :
    s.drive out oe = { s with pinsOut := out', pinsOe := oe, target := t } := by
  subst hout h; rfl

/-- A bit put on the line. -/
theorem sendingAt_setDd (s : State) (x : Sender) (n : Nat) (ts : List Agent) (b : Bool) :
    ((s.sendingAt .cTxset x).withTurns n ts).setDd b = (s.sendingAt .cTxset { x with line := b }).withTurns n ts :=
  State.drive_eq (setLine_data_linePins _ _ b) (Target.sees_noFall _ _ _ _ _ id)

/-- The strobe's rise. -/
theorem sendingAt_rise (s : State) (x : Sender) (n : Nat) (ts : List Agent) :
    ((s.sendingAt .cTxhi x).withTurns n ts).setDc true =
      { (s.sendingAt .cTxhold x).withTurns n ts with phase := .cTxhi } :=
  State.drive_eq (setLine_strobe_linePins _ _ true) (Target.sees_noFall _ _ _ _ _ fun _ => rfl)

/-- The strobe's fall. -/
theorem sendingAt_fall (s : State) (x : Sender) (n : Nat) (ts : List Agent) :
    ((s.sendingAt .cTxlo x).withTurns n ts).setDc false =
      { (s.sendingAt .cTxset { x with bits := x.bits ++ [x.line] }).withTurns n ts with phase := .cTxlo } :=
  State.drive_eq (setLine_strobe_linePins _ _ false) (Target.sees_bit _ _ _ _ _ (show ddOf 0b111#3 = true by decide))

/-- The pins rest, and no frame is begun (10_state.md R24, R25). -/
structure State.LinkRests (s : State) : Prop where
  oe : s.pinsOe = 0b110#3
  strobe : s.dcOut = false
  reset : s.rstnOut = true
  bits : s.target.bits = []

theorem State.LinkRests.pinsOut {s : State} (h : s.LinkRests) : s.pinsOut = linePins false s.ddOut :=
  linePins_of_levels h.strobe h.reset

/-- The driver going off after the bits of a frame. -/
theorem sendingAt_release (s : State) (x : Sender) (n : Nat) (ts : List Agent) {frame : List Byte} (hf : frame ≠ [])
    (hb : x.bits = frame.flatMap byteBits) :
    ((s.sendingAt .cDirin x).withTurns n ts).setDdOe false =
      { (s.sendingAt .cDirin x).withTurns n ts with
        pinsOe := 0b110#3, target := { s.target with inbox := s.target.inbox ++ [frame], bits := [] } } := by
  have hbits : x.bits ≠ [] := by
    obtain ⟨b, bs, rfl⟩ := List.exists_cons_of_ne_nil hf
    simp [hb, byteBits]
  have hoe : setLine 0b111#3 0 false = 0b110#3 := by decide
  have hsees := Target.sees_frame { s.target with bits := x.bits } n x.line x.line (oe := 0b111#3) (oe' := 0b110#3)
    (by decide) (by decide) hbits
  rw [hb, packBits_flatMap, ← hb, ← hoe] at hsees
  rw [← hoe]
  exact State.drive_eq rfl hsees

/-- The driver going on before them. -/
theorem rests_setDdOe {s : State} (hr : s.LinkRests) (n : Nat) (ts : List Agent) :
    (s.withTurns n ts).setDdOe true =
      { s.withTurns n ts with pinsOut := linePins false s.ddOut, pinsOe := 0b111#3 } := by
  have hoe : setLine s.pinsOe 0 true = 0b111#3 := by rw [hr.oe]; decide
  have hsees : s.target.sees n s.pinsOut s.pinsOe (linePins false s.ddOut) 0b111#3 = s.target := by
    rw [hr.pinsOut]
    exact Target.sees_driven _ _ _ _ (by decide)
  rw [← hoe] at hsees ⊢
  exact State.drive_eq hr.pinsOut hsees

/-- The end of a byte is R157's `NEXT` in the engine that sends. -/
theorem byteEnd_nextByte (s : State) (x : Sender) (o : BitVec 3) (n : Nat) (ts : List Agent) :
    (s.byteEnd x o).withTurns n ts =
      ((s.sendingAt .cDirin { x with osrb := Reg.of o }).withTurns n ts).nextByte x.wcnt o := by
  unfold State.byteEnd State.nextByte
  split
  · rfl
  · split <;> rfl

/-! ### The bits of a byte -/

/-- After `k` bits and the rise of the next, none of them a count bit. -/
def Sender.afterBits (x : Sender) (k : Nat) : Sender :=
  { x with
    osr := x.osr <<< (k + 1), bitcnt := x.bitcnt - BitVec.ofNat 4 k, line := x.osr.getLsbD (31 - k)
    bits := x.bits ++ (List.range k).map fun j => x.osr.getLsbD (31 - j) }

/-- After the eight bits of a byte. -/
def Sender.byteSent (x : Sender) : Sender :=
  { x with
    osr := x.osr <<< 8, bitcnt := 0#4, line := x.osr.getLsbD 24, bits := x.bits ++ byteBits (wordByte x.osr 0) }

theorem Sender.afterBits_zero (x : Sender) (hg : x.seg ≠ .segCnt) : x.shifted = x.afterBits 0 := by
  simp [Sender.shifted, Sender.afterBits, hg]

theorem Sender.afterBits_succ (x : Sender) (hg : x.seg ≠ .segCnt) {k : Nat} (hk : k < 31) :
    (x.afterBits k).taken.shifted = x.afterBits (k + 1) := by
  have hbitcnt : x.bitcnt - BitVec.ofNat 4 k - 1#4 = x.bitcnt - BitVec.ofNat 4 (k + 1) := by
    rw [BitVec.ofNat_add, BitVec.sub_sub]
  have hline : (x.osr <<< (k + 1)).getLsbD 31 = x.osr.getLsbD (31 - (k + 1)) := by
    rw [BitVec.getLsbD_shiftLeft]
    simp [show ¬ 31 < k + 1 by omega]
  simp only [Sender.shifted, Sender.taken, Sender.afterBits, hg, if_false, ← BitVec.shiftLeft_add, hbitcnt, hline,
    List.range_succ, List.map_append, List.append_assoc, List.map_cons, List.map_nil]

/-- The first byte of OSR, bit by bit. -/
theorem byteBits_wordByte (w : Word) :
    byteBits (wordByte w 0) = (List.range 8).map fun j => w.getLsbD (31 - j) := by
  simp [byteBits, wordByte, List.range_succ]

theorem Sender.afterBits_taken (x : Sender) (hb : x.bitcnt = 8#4) : (x.afterBits 7).taken = x.byteSent := by
  simp only [Sender.taken, Sender.afterBits, Sender.byteSent, hb, byteBits_wordByte, List.range_succ (n := 7),
    List.map_append, List.append_assoc]
  rfl

/-- The two count bits of an opcode byte, shifted in (40_link_engine.md R154). -/
theorem countBits_shifted (w : Word) :
    (((0#16 : Half) <<< 1 ||| (BitVec.ofBool (w.getLsbD 25)).zeroExtend 16) <<< 1 |||
      (BitVec.ofBool (w.getLsbD 24)).zeroExtend 16) = (w.extractLsb' 24 2).zeroExtend 16 := by
  ext i hi
  simp
  grind

theorem Sender.countBits_taken (x : Sender) (hw : x.wcnt = 0#16) :
    ({ (x.afterBits 5).taken with seg := .segCnt, bitcnt := 2#4 } : Sender).shifted.taken.shifted.taken =
      { x.byteSent with seg := .segCnt, wcnt := (x.osr.extractLsb' 24 2).zeroExtend 16 } := by
  simp only [Sender.shifted, Sender.taken, Sender.afterBits, Sender.byteSent, if_true, hw, ← countBits_shifted,
    byteBits_wordByte, ← BitVec.shiftLeft_add, BitVec.getLsbD_shiftLeft]
  simp [List.range_succ]

/-! ### What is still to be sent -/

theorem wordByte_shift (w : Word) {k : Nat} (hk : k < 3) : wordByte (w <<< 8) k = wordByte w (k + 1) := by
  have hsum : 24 - 8 * k = 24 - 8 * (k + 1) + 8 := by omega
  ext i hi
  simp [wordByte, hsum]
  grind

/-- The unsent bytes of OSR are its first one and those unsent once it is shifted out. -/
theorem take_wordBytes (w : Word) {o : BitVec 3} (ho : o ≠ 0#3) (h4 : o.toNat ≤ 4) :
    (wordBytes w).take o.toNat = wordByte w 0 :: (wordBytes (w <<< 8)).take (o - 1#3).toNat := by
  have hsub : o.toNat = (o - 1#3).toNat + 1 := by bv_omega
  rw [hsub]
  generalize (o - 1#3).toNat = k at hsub ⊢
  have hk : k ≤ 3 := by omega
  interval_cases k <;> simp [wordBytes, wordByte_shift]

/-- The write count is the payload's length, and its bytes stand in the `o` unsent bytes of OSR and in the words `ws` of
TXF, which are as many as it needs. -/
structure Unsent (osr : Word) (wcnt : Half) (txf : List Word) (o : BitVec 3) (ws rest : List Word) (pl : List Byte) :
    Prop where
  short : pl.length ≤ 65535
  unsent : o.toNat ≤ 4
  wcnt : wcnt = BitVec.ofNat 16 pl.length
  txf : txf = ws ++ rest
  words : ws.length = (pl.length - o.toNat + 3) / 4
  bytes : ∃ pad : List Byte, (wordBytes osr).take o.toNat ++ ws.flatMap wordBytes = pl ++ pad

section Unsent
variable {osr : Word} {wcnt : Half} {txf : List Word} {o : BitVec 3} {ws rest : List Word} {b : Byte} {pl : List Byte}

theorem Unsent.nil (h : Unsent osr wcnt txf o ws rest []) : wcnt = 0#16 ∧ ws = [] := by
  refine ⟨h.wcnt, List.eq_nil_of_length_eq_zero ?_⟩
  have := h.words
  simp only [List.length_nil] at this
  omega

theorem Unsent.more (h : Unsent osr wcnt txf o ws rest (b :: pl)) : wcnt ≠ 0#16 := by
  have hshort := h.short
  rw [h.wcnt]
  simp only [List.length_cons] at hshort ⊢
  bv_omega

/-- The next byte is the first of OSR. -/
theorem Unsent.next (h : Unsent osr wcnt txf o ws rest (b :: pl)) (ho : o ≠ 0#3) :
    wordByte osr 0 = b ∧ Unsent (osr <<< 8) (wcnt - 1#16) txf (o - 1#3) ws rest pl := by
  obtain ⟨hshort, h4, hw, htxf, hwords, pad, hbytes⟩ := h
  rw [take_wordBytes osr ho h4, List.cons_append, List.cons_append, List.cons.injEq] at hbytes
  obtain ⟨hfirst, hrest⟩ := hbytes
  have hsub : o.toNat = (o - 1#3).toNat + 1 := by bv_omega
  simp only [List.length_cons] at hshort hw hwords
  refine ⟨hfirst, by omega, by omega, ?_, htxf, by omega, pad, hrest⟩
  rw [hw, BitVec.ofNat_add, BitVec.add_sub_cancel]

/-- Where OSR holds none, a word of TXF does. -/
theorem Unsent.refill (h : Unsent osr wcnt txf 0#3 ws rest (b :: pl)) :
    ∃ (w : Word) (ws' : List Word), ws = w :: ws' ∧ Unsent w wcnt (ws' ++ rest) 4#3 ws' rest (b :: pl) := by
  obtain ⟨hshort, _, hw, _, hwords, pad, hbytes⟩ := h
  have hzero : (0#3).toNat = 0 := rfl
  have hfour : (4#3).toNat = 4 := rfl
  cases ws with
  | nil => simp [hzero] at hbytes
  | cons w ws' =>
    refine ⟨w, ws', rfl, hshort, le_rfl, hw, rfl, ?_, pad, by simpa [wordBytes] using hbytes⟩
    simp only [List.length_cons, hzero, hfour] at hwords ⊢
    omega

end Unsent

/-! ### A whole frame -/

/-- The engine once the target has taken a frame, with `r` response bytes to come (40_link_engine.md R160). -/
def State.frameTaken (s : State) (y : Sender) (frame : List Byte) (r : Half) : State :=
  { s.sendingAt .cDirin y with
    pinsOe := 0b110#3
    target := { s.target with inbox := s.target.inbox ++ [frame], bits := [] }
    phase := if r = 0#16 then .cIdle else .cSample }

/-- A frame of `s` begun: its first word in OSR, `b` bits of the opcode byte before its count, and its counts
(40_link_engine.md R150 to R152). -/
def State.headed (s : State) (w : Word) (b : BitVec 4) (c r : Half) (rest : List Word) : State :=
  { s with
    txf := rest, osr := Reg.of w, opc := Reg.of (wordByte w 0), wcnt := Reg.of c, rcnt := Reg.of r
    txseg := Reg.of .segOp, bitcnt := Reg.of b, phase := .cDirout }

/-- The first bit of that frame. -/
def State.firstBit (s : State) (w : Word) (b : BitVec 4) (c : Half) (rest : List Word) : Sender :=
  { osr := w, seg := .segOp, bitcnt := b, wcnt := c, osrb := s.osrb, txf := rest, line := s.ddOut, bits := [] }

section Send
variable {s : State} (hs : s.RunsCommand) (x : Sender)
include hs

/-! ### One bit (40_link_engine.md R154 to R157) -/

theorem ticks_cTxset : Ticks 1 (s.sendingAt .cTxset x) (s.sendingAt .cTxhi x.shifted) := by
  refine .rule hs.life (hs.has rfl) fun n ts => congrArg Host.Outcome.next ?_
  rw [sendingAt_setDd]
  cases hg : x.seg <;> simp only [Sender.shifted, State.sendingAt, hg] <;> rfl

theorem ticks_cTxhi : Ticks 1 (s.sendingAt .cTxhi x) (s.sendingAt .cTxhold x) := by
  refine .rule hs.life (hs.has rfl) fun n ts => congrArg Host.Outcome.next ?_
  rw [sendingAt_rise]
  rfl

theorem ticks_cTxhold : Ticks 1 (s.sendingAt .cTxhold x) (s.sendingAt .cTxlo x) :=
  .rule hs.life (hs.has rfl) fun _ _ => rfl

/-- A bit rises and holds for three ticks. -/
theorem ticks_bitUp : Ticks 3 (s.sendingAt .cTxset x) (s.sendingAt .cTxlo x.shifted) :=
  ((ticks_cTxset hs x).trans (ticks_cTxhi hs _)).trans (ticks_cTxhold hs _)

/-- A bit that is not the last of its segment. -/
theorem ticks_nextBit (hb : x.bitcnt - 1#4 ≠ 0#4) :
    Ticks 1 (s.sendingAt .cTxlo x) (s.sendingAt .cTxset x.taken) := by
  refine .rule hs.life (hs.has rfl) fun n ts => congrArg Host.Outcome.next ((if_pos hb).trans ?_)
  rw [sendingAt_fall]
  rfl

/-- The last of the six opcode bits of a simple frame: two count bits follow. -/
theorem ticks_opEnd (hv : s.variant = .vSimple) (hb : x.bitcnt = 1#4) (hg : x.seg = .segOp) :
    Ticks 1 (s.sendingAt .cTxlo x) (s.sendingAt .cTxset { x.taken with seg := .segCnt, bitcnt := 2#4 }) := by
  refine .rule hs.life (hs.has rfl) fun n ts =>
    (exec_cTxlo_op (s := (s.sendingAt .cTxlo x).withTurns n ts) hb hg hv).trans (congrArg Host.Outcome.next ?_)
  rw [sendingAt_fall]
  rfl

/-- The last bit of the opcode byte. -/
theorem ticks_headerEnd (hb : x.bitcnt = 1#4) (hg : x.seg = .segCnt ∨ (x.seg = .segOp ∧ s.variant ≠ .vSimple)) :
    Ticks 1 (s.sendingAt .cTxlo x) (s.byteEnd x.taken 3#3) := by
  refine .rule hs.life (hs.has rfl) fun n ts =>
    (exec_cTxlo_header (s := (s.sendingAt .cTxlo x).withTurns n ts) hb hg).trans (congrArg Host.Outcome.next ?_)
  rw [sendingAt_fall, byteEnd_nextByte]
  simp only [Sender.taken, hb]
  rfl

/-- The last bit of a payload byte. -/
theorem ticks_dataEnd {o : BitVec 3} (hb : x.bitcnt = 1#4) (hg : x.seg = .segData) (ho : x.osrb = Reg.of o) :
    Ticks 1 (s.sendingAt .cTxlo x) (s.byteEnd { x.taken with wcnt := x.wcnt - 1#16 } (o - 1#3)) := by
  refine .rule hs.life (hs.has rfl) fun n ts =>
    (exec_cTxlo_data (s := (s.sendingAt .cTxlo x).withTurns n ts) hb hg).trans (congrArg Host.Outcome.next ?_)
  have hosrb : ((s.sendingAt .cTxlo x).withTurns n ts).rdOsrb = o := congrArg (Reg.read · _) ho
  rw [sendingAt_fall, byteEnd_nextByte, hosrb]
  simp only [Sender.taken, hb]
  rfl

/-! ### One byte -/

/-- Bits of the opcode or of a payload byte, up to the fall of the strobe for the `k`th after the first. -/
theorem ticks_bits (hg : x.seg ≠ .segCnt) {k : Nat} (hk : k < x.bitcnt.toNat) :
    Ticks (4 * k + 3) (s.sendingAt .cTxset x) (s.sendingAt .cTxlo (x.afterBits k)) := by
  induction k with
  | zero => exact x.afterBits_zero hg ▸ ticks_bitUp hs x
  | succ k ih =>
    have hmore : (x.afterBits k).bitcnt - 1#4 ≠ 0#4 := by
      have := x.bitcnt.isLt
      simp only [Sender.afterBits]
      bv_omega
    have hlast := (ih (by omega)).trans ((ticks_nextBit hs _ hmore).trans (ticks_bitUp hs _))
    rwa [x.afterBits_succ hg (by omega)] at hlast

/-- The opcode byte of an extended frame takes 32 ticks. -/
theorem ticks_extHeader (hv : s.variant ≠ .vSimple) (hg : x.seg = .segOp) (hb : x.bitcnt = 8#4) :
    Ticks 32 (s.sendingAt .cTxset x) (s.byteEnd x.byteSent 3#3) := by
  have hbits := ticks_bits hs x (k := 7) (by simp [hg]) (by simp [hb])
  have hend := ticks_headerEnd hs (x.afterBits 7) (by simp [Sender.afterBits, hb]) (.inr ⟨hg, hv⟩)
  rw [x.afterBits_taken hb] at hend
  exact hbits.trans hend

/-- So does a payload byte. -/
theorem ticks_dataByte {o : BitVec 3} (hg : x.seg = .segData) (hb : x.bitcnt = 8#4) (ho : x.osrb = Reg.of o) :
    Ticks 32 (s.sendingAt .cTxset x) (s.byteEnd { x.byteSent with wcnt := x.wcnt - 1#16 } (o - 1#3)) := by
  have hbits := ticks_bits hs x (k := 7) (by simp [hg]) (by simp [hb])
  have hend := ticks_dataEnd hs (x.afterBits 7) (by simp [Sender.afterBits, hb]) hg ho
  rw [x.afterBits_taken hb] at hend
  exact hbits.trans hend

/-- And so does the opcode byte of a simple frame, whose last two bits are the write count (30_encoding.md R92). -/
theorem ticks_simpleHeader (hv : s.variant = .vSimple) (hg : x.seg = .segOp) (hb : x.bitcnt = 6#4)
    (hw : x.wcnt = 0#16) :
    Ticks 32 (s.sendingAt .cTxset x)
      (s.byteEnd { x.byteSent with seg := .segCnt, wcnt := (x.osr.extractLsb' 24 2).zeroExtend 16 } 3#3) := by
  have hop := (ticks_bits hs x (k := 5) (by simp [hg]) (by simp [hb])).trans
    (ticks_opEnd hs _ hv (by simp [Sender.afterBits, hb]) hg)
  have hcount := (ticks_bitUp hs { (x.afterBits 5).taken with seg := .segCnt, bitcnt := 2#4 }).trans
    ((ticks_nextBit hs _ (show 2#4 - 1#4 ≠ 0#4 by decide)).trans
      ((ticks_bitUp hs _).trans (ticks_headerEnd hs _ (show 2#4 - 1#4 = 1#4 by decide) (.inl rfl))))
  rw [x.countBits_taken hw] at hcount
  exact hop.trans hcount

/-! ### The bytes of a payload -/

/-- A later word of the stream is taken (40_link_engine.md R158). -/
theorem ticks_cRefill (hv : s.variant = .vExt) {w : Word} {rest : List Word} (hw : x.txf = w :: rest) :
    Ticks 1 (s.sendingAt .cRefill x)
      (s.sendingAt .cTxset { x with osr := w, osrb := Reg.of 4#3, txf := rest }) := by
  refine .rule hs.life (show s.variant.has .cRefill = true by rw [hv]; rfl) fun n ts => ?_
  obtain ⟨_, _, _, hrefill⟩ := exec_fetch_word (s := (s.sendingAt .cRefill x).withTurns n ts) hw
  exact hrefill

/-- Before each payload byte OSR holds it, or a word is taken for it. -/
theorem ticks_toByte {o : BitVec 3} {ws rest : List Word} {b : Byte} {pl : List Byte}
    (h : Unsent x.osr x.wcnt x.txf o ws rest (b :: pl)) (hv : ws ≠ [] → s.variant = .vExt) :
    ∃ (y : Sender) (o' : BitVec 3) (ws' : List Word) (k : Nat), ws.length = k + ws'.length ∧
      Ticks k (s.byteEnd x o) (s.sendingAt .cTxset y) ∧ o' ≠ 0#3 ∧
      Unsent y.osr y.wcnt y.txf o' ws' rest (b :: pl) ∧ y.bits = x.bits ∧
      y.seg = .segData ∧ y.bitcnt = 8#4 ∧ y.osrb = Reg.of o' := by
  rw [State.byteEnd, if_neg h.more]
  by_cases ho : o = 0#3
  · subst ho
    obtain ⟨w, ws', rfl, hnext⟩ := h.refill
    have hword := ticks_cRefill hs { x with osrb := Reg.of 0#3, seg := .segData, bitcnt := 8#4 } (hv (by simp)) h.txf
    exact ⟨_, 4#3, ws', 1, Nat.add_comm _ _, hword, by decide, hnext, rfl, rfl, rfl, rfl⟩
  · rw [if_neg ho]
    exact ⟨_, o, ws, 0, (Nat.zero_add _).symm, Ticks.refl _, ho, h, rfl, rfl, rfl, rfl⟩

/-- From the end of a byte the rest of the payload goes on the wire: 32 ticks for each byte, one for each word taken. -/
theorem ticks_payload {rest : List Word} (pl : List Byte) {x : Sender} {o : BitVec 3} {ws : List Word}
    (h : Unsent x.osr x.wcnt x.txf o ws rest pl) (hv : ws ≠ [] → s.variant = .vExt) :
    ∃ y : Sender, Ticks (32 * pl.length + ws.length) (s.byteEnd x o) (s.sendingAt .cDirin y) ∧
      y.bits = x.bits ++ pl.flatMap byteBits ∧ y.txf = rest := by
  induction pl generalizing x o ws with
  | nil =>
    obtain ⟨hend, rfl⟩ := h.nil
    rw [State.byteEnd, if_pos hend]
    exact ⟨_, Ticks.refl _, by simp, by simpa using h.txf⟩
  | cons b pl ih =>
    obtain ⟨x', o', ws', k, hlen, hstart, ho', hunsent, hbits', hg, hb, hosrb⟩ := ticks_toByte hs x h hv
    obtain ⟨hfirst, hnext⟩ := hunsent.next ho'
    have hv' : ws' ≠ [] → s.variant = .vExt := fun hne => hv fun he => hne (by
      rw [he, List.length_nil] at hlen
      exact List.eq_nil_of_length_eq_zero (by omega))
    obtain ⟨y, hy, hbits, htxf⟩ := ih (x := { x'.byteSent with wcnt := x'.wcnt - 1#16 }) hnext hv'
    refine ⟨y, (hstart.trans ((ticks_dataByte hs x' hg hb hosrb).trans hy)).cast ?_, ?_, htxf⟩
    · rw [List.length_cons]; omega
    · rw [hbits, ← hfirst, ← hbits']
      simp [Sender.byteSent]

/-! ### The two ends of a frame -/

/-- The driver goes on with the first bit to come (40_link_engine.md R153). -/
theorem ticks_cDirout (hr : s.LinkRests) (w : Word) (b : BitVec 4) (c r : Half) (rest : List Word) :
    Ticks 1 (s.headed w b c r rest) ((s.headed w b c r rest).sendingAt .cTxset (s.firstBit w b c rest)) := by
  have hr' : (s.headed w b c r rest).LinkRests := ⟨hr.oe, hr.strobe, hr.reset, hr.bits⟩
  have htarget : ({ s.target with bits := [] } : Target) = s.target := by rw [← hr.bits]
  refine .rule hs.life (hs.has rfl) fun n ts => congrArg Host.Outcome.next ?_
  rw [rests_setDdOe hr']
  simp only [State.sendingAt, State.headed, State.firstBit, htarget]
  rfl

/-- The driver goes off, and the target has the frame (40_link_engine.md R160, 42_access_layer.md R211). -/
theorem ticks_cDirin {r : Half} {frame : List Byte} (hr : s.rcnt = Reg.of r) (hf : frame ≠ [])
    (hb : x.bits = frame.flatMap byteBits) :
    Ticks 1 (s.sendingAt .cDirin x) (s.frameTaken x frame r) := by
  refine .rule hs.life (hs.has rfl) fun n ts => congrArg Host.Outcome.next ?_
  have hrcnt : ((s.sendingAt .cDirin x).withTurns n ts).rdRcnt = r := congrArg (Reg.read · _) hr
  rw [sendingAt_release s x n ts hf hb, hrcnt]
  rfl

/-- A frame, once its opcode byte is on the wire: the payload, and the release of the line. -/
theorem ticks_frame {u : State} {x : Sender} {k : Nat} {op : Byte} {pl : List Byte} {ws rest : List Word} {r : Half}
    (hx : Ticks k u (s.byteEnd x 3#3)) (h : Unsent x.osr x.wcnt x.txf 3#3 ws rest pl)
    (hv : ws ≠ [] → s.variant = .vExt) (hb : x.bits = byteBits op) (hr : s.rcnt = Reg.of r) :
    ∃ y : Sender, Ticks (k + 32 * pl.length + ws.length + 1) u (s.frameTaken y (op :: pl) r) ∧ y.txf = rest := by
  obtain ⟨y, hy, hbits, htxf⟩ := ticks_payload hs pl h hv
  have hdirin := ticks_cDirin hs y hr (List.cons_ne_nil op pl) (by rw [hbits, hb, List.flatMap_cons])
  exact ⟨y, ((hx.trans hy).trans hdirin).cast (by omega), htxf⟩

end Send

/-- What a run to the end of a frame leaves. -/
theorem run_frameTaken {s : State} {w : Word} {b : BitVec 4} {c r : Half} {rest : List Word} {y : Sender}
    {frame : List Byte} {k : Nat} {ts : List Agent} (h : Ticks k s ((s.headed w b c r rest).frameTaken y frame r))
    (hts : s.turns = List.replicate k .sequencer ++ ts) :
    ∃ t : State, core.run k s = .next t ∧ t.target.inbox = s.target.inbox ++ [frame] ∧ t.target.bits = [] ∧
      t.phase = (if r = 0#16 then .cIdle else .cSample) ∧ t.rcnt = Reg.of r ∧ t.txf = y.txf ∧ t.rxf = s.rxf ∧
      t.pinsOe = 0b110#3 ∧ t.dcOut = false ∧ t.rstnOut = true ∧ t.turns = ts ∧ t.tasks = s.tasks :=
  ⟨_, h.run hts, rfl, rfl, rfl, rfl, rfl, rfl, rfl, dcOf_linePins _ _, rstnOf_linePins _ _, rfl, rfl⟩

/-! ### A simple frame (30_encoding.md R96) -/

/-- The payload of a simple frame is the bytes after the opcode byte that its count bits say. -/
theorem unsent_simple (w : Word) (txf : List Word) :
    Unsent (w <<< 8) ((w.extractLsb' 24 2).zeroExtend 16) txf 3#3 [] txf
      ([wordByte w 1, wordByte w 2, wordByte w 3].take (w.extractLsb' 24 2).toNat) := by
  have hlt : (w.extractLsb' 24 2).toNat < 4 := (w.extractLsb' 24 2).isLt
  have hlen : ([wordByte w 1, wordByte w 2, wordByte w 3].take (w.extractLsb' 24 2).toNat).length =
      (w.extractLsb' 24 2).toNat := by simp; omega
  have hthree : (3#3).toNat = 3 := rfl
  refine ⟨by omega, by decide, ?wcnt, rfl, ?words,
    [wordByte w 1, wordByte w 2, wordByte w 3].drop (w.extractLsb' 24 2).toNat, ?bytes⟩
  case wcnt =>
    rw [hlen]
    apply BitVec.eq_of_toNat_eq
    simp only [BitVec.toNat_setWidth, BitVec.toNat_ofNat]
  case words =>
    rw [hlen, hthree, List.length_nil]
    omega
  case bytes =>
    rw [List.take_append_drop]
    simp [wordBytes, wordByte_shift, hthree]

/-- A simple frame is begun in one tick. -/
theorem ticks_simpleFetch {s : State} (hs : s.RunsCommand) (hv : s.variant = .vSimple) (hp : s.phase = .cIdle) {w : Word}
    {rest : List Word} (htxf : s.txf = w :: rest) (hop : wordByte w 0 ≠ s.cfg.opNull) :
    Ticks 1 s (s.headed w 6#4 0#16 1#16 rest) := by
  refine .rule hs.life (hp ▸ hs.has rfl) fun n ts => ?_
  obtain ⟨hsimple, _⟩ := exec_fetch_word (s := s.withTurns n ts) htxf
  rw [hp, hv]
  exact hsimple.trans (congrArg Host.Outcome.next (takeSimple_command hop))

/-- Settles O25: the opcode byte, its payload, and the release of the line. -/
theorem simpleFrameSent : Obligations.SimpleFrameSent := by
  intro s w rest ts c hl hv hp hoe hdc hrst hbits htxf hop hc hts
  subst hc
  have hs : s.RunsCommand := ⟨hl, .inl hv⟩
  have hu : (s.headed w 6#4 0#16 1#16 rest).RunsCommand := ⟨hl, .inl hv⟩
  have hfetch := ticks_simpleFetch hs hv hp htxf hop
  have hdir := ticks_cDirout hs ⟨hoe, hdc, hrst, hbits⟩ w 6#4 0#16 1#16 rest
  have hheader := ticks_simpleHeader hu (s.firstBit w 6#4 0#16 rest) hv rfl rfl rfl
  obtain ⟨y, hframe, rfl⟩ := ticks_frame hu (op := wordByte w 0) (hfetch.trans (hdir.trans hheader))
    (unsent_simple w rest) nofun rfl rfl
  have hlt : (w.extractLsb' 24 2).toNat < 4 := (w.extractLsb' 24 2).isLt
  have htake : ∀ n : Nat, [wordByte w 0, wordByte w 1, wordByte w 2, wordByte w 3].take (1 + n) =
      wordByte w 0 :: [wordByte w 1, wordByte w 2, wordByte w 3].take n := fun n => by
    rw [Nat.add_comm]; rfl
  rw [← htake] at hframe
  exact run_frameTaken (hframe.cast (by simp; omega)) hts

/-! ### An extended frame (30_encoding.md R100, R101) -/

/-- The words of the stream: the opcode byte, and the payload unsent. -/
theorem unsent_ext (op : Byte) {payload : List Byte} (hshort : payload.length ≤ 65535) (rest : List Word) :
    ∃ (w : Word) (ws : List Word), packWords (op :: payload) = w :: ws ∧ wordByte w 0 = op ∧
      ws.length = (1 + payload.length + 3) / 4 - 1 ∧
      Unsent (w <<< 8) (BitVec.ofNat 16 payload.length) (ws ++ rest) 3#3 ws rest payload := by
  have hlen := packWords_length (op :: payload)
  have hbytes := packWords_bytes (op :: payload)
  have hthree : (3#3).toNat = 3 := rfl
  cases hpack : packWords (op :: payload) with
  | nil => rw [hpack] at hbytes; cases hbytes
  | cons w ws =>
    rw [hpack] at hlen hbytes
    simp only [List.flatMap_cons, wordBytes, List.cons_append, List.nil_append, List.cons.injEq] at hbytes
    obtain ⟨hop, hbytes⟩ := hbytes
    simp only [List.length_cons] at hlen
    refine ⟨w, ws, rfl, hop, by omega, hshort, by decide, rfl, rfl, by omega, _, Eq.trans ?_ hbytes⟩
    simp [wordBytes, wordByte_shift, hthree]

/-- An extended frame is begun in two ticks. -/
theorem ticks_extFetch {s : State} (hs : s.RunsCommand) (hv : s.variant = .vExt) (hp : s.phase = .cIdle)
    {wcount rcount : Half} {w : Word} {rest : List Word} (htxf : s.txf = (wcount ++ rcount) :: w :: rest)
    (hop : wordByte w 0 ≠ s.cfg.opNull) : Ticks 2 s (s.headed w 8#4 wcount rcount rest) := by
  have hcounts : Ticks 1 s (State.takePrefix { s with txf := w :: rest } wcount rcount) := by
    refine .rule hs.life (hp ▸ hs.has rfl) fun n ts => ?_
    obtain ⟨_, hext, _⟩ := exec_fetch_word (s := s.withTurns n ts) htxf
    have hw : (wcount ++ rcount : Word).extractLsb' 16 16 = wcount := BitVec.extractLsb'_append_eq_left
    have hr : (wcount ++ rcount : Word).extractLsb' 0 16 = rcount := BitVec.extractLsb'_append_eq_right
    rw [hw, hr] at hext
    rw [show ruleOf s.variant s.phase = .cIdleExt by rw [hp, hv]; rfl]
    exact hext
  refine hcounts.trans (.rule hs.life (show s.variant.has .cFetch0 = true by rw [hv]; rfl) fun n ts => ?_)
  obtain ⟨_, _, hfetch, _⟩ := exec_fetch_word
    (s := (State.takePrefix { s with txf := w :: rest } wcount rcount).withTurns n ts) rfl
  exact hfetch.trans (congrArg Host.Outcome.next (takeStream0_command hop))

/-- The words of a frame that encodes. -/
theorem words_ext {cfg : Config} {op : Byte} {payload : List Byte} {rcount : Nat} {ws : List Word}
    (h : Frame.words cfg { kind := .ext, op := op, payload := payload, rcount := rcount } = some ws) :
    ws = encExt op payload rcount := by
  unfold Frame.words at h
  split at h
  · exact (Option.some.inj h).symm
  · cases h

/-- Settles O26: the two words that begin the frame, the opcode byte, the payload, and the release of the line. -/
theorem extendedFrameSent : Obligations.ExtendedFrameSent := by
  intro s op payload rcount n ws rest ts hl hv hp hoe hdc hrst hbits hop hshort hr hws htxf hn hts
  obtain ⟨w, more, hpack, rfl, hmore, hunsent⟩ := unsent_ext op hshort rest
  rw [words_ext hws, encExt, hpack] at htxf
  have hs : s.RunsCommand := ⟨hl, .inr hv⟩
  have hfetch := ticks_extFetch hs hv hp htxf hop
  have hdir := ticks_cDirout hs ⟨hoe, hdc, hrst, hbits⟩ w 8#4 (BitVec.ofNat 16 payload.length)
    (BitVec.ofNat 16 rcount) (more ++ rest)
  have hu : (s.headed w 8#4 (BitVec.ofNat 16 payload.length) (BitVec.ofNat 16 rcount) (more ++ rest)).RunsCommand :=
    ⟨hl, .inr hv⟩
  have hheader := ticks_extHeader hu (s.firstBit w 8#4 (BitVec.ofNat 16 payload.length) (more ++ rest))
    (show s.variant ≠ .vSimple by rw [hv]; exact nofun) rfl rfl
  obtain ⟨y, hframe, rfl⟩ := ticks_frame hu (op := wordByte w 0) (hfetch.trans (hdir.trans hheader)) hunsent
    (fun _ => hv) rfl rfl
  have hsilent : BitVec.ofNat 16 rcount = 0#16 ↔ rcount = 0 := by bv_omega
  have hrun := run_frameTaken (hframe.cast (n := n) (by omega)) hts
  simpa only [hsilent] using hrun

end Sys2Proof.Machine
end

section
/-! PROOFS. A response byte on the wire (O27). -/

namespace Sys2Proof.Machine

/-! ### The engine while it receives -/

/-- What changes while a byte is received: the registers of the byte (10_state.md R29) and the levels still listed. -/
structure Receiver where
  isr : Byte
  bitcnt : BitVec 4
  dd : List Drive

/-- The engine of `s` at a phase of the byte, its strobe as the phase has it (40_link_engine.md R161 to R165). -/
def State.receivingAt (s : State) (p : Phase) (x : Receiver) : State :=
  { s with
    phase := p, pinsOut := linePins p.strobeHigh s.ddOut, isr := Reg.of x.isr, bitcnt := Reg.of x.bitcnt, dd := x.dd }

/-- A level shifted in from bit 0 (40_link_engine.md R164). -/
def shiftIn (isr : Byte) (b : Bool) : Byte := (isr <<< 1) ||| (BitVec.ofBool b).zeroExtend 8

/-- Eight levels shifted in, the first in bit 7, in the word that is pushed (30_encoding.md R103). -/
theorem respBits_shiftIn (nr b7 b6 b5 b4 b3 b2 b1 b0 : Bool) :
    respBits nr ([b7, b6, b5, b4, b3, b2, b1, b0].foldl shiftIn 0#8) =
      BitVec.ofBool nr ++ 0#23 ++ BitVec.ofBool b7 ++ BitVec.ofBool b6 ++ BitVec.ofBool b5 ++ BitVec.ofBool b4 ++
        BitVec.ofBool b3 ++ BitVec.ofBool b2 ++ BitVec.ofBool b1 ++ BitVec.ofBool b0 := by
  revert nr b7 b6 b5 b4 b3 b2 b1 b0
  decide

/-- A listed level is nothing the target presents by its contract. -/
theorem State.presented_level {s : State} {b : Bool} {ds : List Drive} (h : s.dd = .level b :: ds) :
    s.presented = s.target := by
  simp only [State.presented, State.answering, h, Bool.false_and, Bool.false_eq_true, if_false]

theorem exec_cRxlo_level {s : State} {b : Bool} {ds : List Drive} (hoe : s.ddOe = false) (hd : s.dd = .level b :: ds) :
    exec .cRxlo s = .next { s.setDc false with
      isr := Reg.of (shiftIn s.rdIsr b)
      bitcnt := Reg.of (s.rdBitcnt - 1#4)
      phase := if s.rdBitcnt - 1#4 ≠ 0#4 then .cRxhi else .cPush
      dd := ds } := by
  refine congrArg Host.Outcome.next ?_
  rw [State.presented_level hd, State.ddIn_level _ hoe hd, hd]
  rfl

section Receive
variable {s : State} (hs : s.RunsCommand) (hoe : s.pinsOe = 0b110#3) (x : Receiver)
include hs hoe

/-! ### One bit (40_link_engine.md R162 to R164) -/

omit hoe in
theorem ticks_rxUp : Ticks 2 (s.receivingAt .cRxhi x) (s.receivingAt .cRxlo x) := by
  have hrise : ∀ (n : Nat) (ts : List Agent), ((s.receivingAt .cRxhi x).withTurns n ts).setDc true =
      { (s.receivingAt .cRxhold x).withTurns n ts with phase := .cRxhi } := fun n ts =>
    State.drive_eq (setLine_strobe_linePins _ _ true) (Target.sees_noFall _ _ _ _ _ fun _ => rfl)
  have hup : Ticks 1 (s.receivingAt .cRxhi x) (s.receivingAt .cRxhold x) := by
    refine .rule hs.life (hs.has rfl) fun n ts => congrArg Host.Outcome.next ?_
    rw [hrise]
    rfl
  have hhold : Ticks 1 (s.receivingAt .cRxhold x) (s.receivingAt .cRxlo x) :=
    .rule hs.life (hs.has rfl) fun _ _ => rfl
  exact hup.trans hhold

/-- The level listed is sampled, and the strobe falls. -/
theorem ticks_cRxlo {b : Bool} {ds : List Drive} (hd : x.dd = .level b :: ds) :
    Ticks 1 (s.receivingAt .cRxlo x)
      (s.receivingAt (if x.bitcnt - 1#4 ≠ 0#4 then .cRxhi else .cPush)
        { isr := shiftIn x.isr b, bitcnt := x.bitcnt - 1#4, dd := ds }) := by
  have hddOe : s.ddOe = false := by rw [State.ddOe, hoe]; decide
  have hfall : ∀ (n : Nat) (ts : List Agent), ((s.receivingAt .cRxlo x).withTurns n ts).setDc false =
      { (s.receivingAt .cPush x).withTurns n ts with phase := .cRxlo } := fun n ts =>
    State.drive_eq (setLine_strobe_linePins _ _ false) (Target.sees_noBit _ _ _ _ _ hddOe)
  refine .rule hs.life (hs.has rfl) fun n ts =>
    (exec_cRxlo_level (s := (s.receivingAt .cRxlo x).withTurns n ts) hddOe hd).trans (congrArg Host.Outcome.next ?_)
  have hbit : ((s.receivingAt .cRxlo x).withTurns n ts).rdBitcnt = x.bitcnt := rfl
  rw [hfall, hbit]
  split <;> rfl

/-! ### One byte -/

/-- The levels of the bits that are left, the first listed the first received. -/
theorem ticks_levels (levels : List Bool) (hne : levels ≠ []) {ds : List Drive} (hlen : levels.length ≤ 8)
    (hb : x.bitcnt = BitVec.ofNat 4 levels.length) (hd : x.dd = levels.map .level ++ ds) :
    Ticks (3 * levels.length) (s.receivingAt .cRxhi x)
      (s.receivingAt .cPush { isr := levels.foldl shiftIn x.isr, bitcnt := 0#4, dd := ds }) := by
  induction levels generalizing x with
  | nil => exact absurd rfl hne
  | cons b levels ih =>
    have hcount : x.bitcnt - 1#4 = BitVec.ofNat 4 levels.length := by
      rw [hb, List.length_cons, BitVec.ofNat_add, BitVec.add_sub_cancel]
    have hbit := (ticks_rxUp hs x).trans (ticks_cRxlo hs hoe x (b := b) (ds := levels.map Drive.level ++ ds) hd)
    rw [hcount] at hbit
    cases levels with
    | nil => exact hbit
    | cons b' levels =>
      have hmore : BitVec.ofNat 4 (b' :: levels).length ≠ 0#4 := by
        simp only [List.length_cons] at hlen ⊢
        bv_omega
      rw [if_pos hmore] at hbit
      have hrest := ih { isr := shiftIn x.isr b, bitcnt := BitVec.ofNat 4 (b' :: levels).length, dd := _ }
        (List.cons_ne_nil _ _) (by simp only [List.length_cons] at hlen ⊢; omega) rfl rfl
      exact (hbit.trans hrest).cast (by simp only [List.length_cons]; omega)

end Receive

/-- The engine of `s` once it has sampled whether the target is ready (40_link_engine.md R161). -/
def State.sampled (s : State) (nr : Bool) : State := { s with nr := Reg.of nr }

theorem ticks_cSample {s : State} (hs : s.RunsCommand) (hoe : s.pinsOe = 0b110#3)
    (hout : s.pinsOut = linePins false s.ddOut) (hp : s.phase = .cSample) {l : Bool} {ds : List Drive}
    (hd : s.dd = .level l :: ds) :
    Ticks 1 s ((s.sampled (l != s.cfg.readyLevel)).receivingAt .cRxhi { isr := 0#8, bitcnt := 8#4, dd := ds }) := by
  have hddOe : s.ddOe = false := by rw [State.ddOe, hoe]; decide
  have hpins : linePins Phase.cRxhi.strobeHigh (s.sampled (l != s.cfg.readyLevel)).ddOut = s.pinsOut := hout.symm
  have htail : ds = s.dd.tail := by rw [hd]; rfl
  refine .rule hs.life (hp ▸ hs.has rfl) fun n ts => ?_
  rw [hp]
  refine congrArg Host.Outcome.next ?_
  rw [State.ddIn_level (s := s.withTurns n ts) _ hddOe hd, State.receivingAt, hpins, htail]
  rfl

/-- The word is pushed where RXF has room (40_link_engine.md R165). -/
theorem exec_cPush_room {s : State} (h : s.rxf.length < s.cfg.rxfDepth) :
    exec .cPush s = .next { s with
      rxf := s.rxf ++ [respBits s.rdNr s.rdIsr]
      rcnt := Reg.of (s.rdRcnt - 1#16)
      phase := if s.rdRcnt - 1#16 = 0#16 then .cIdle else .cSample } := by
  simp only [exec, execCPush, State.rxfFull, Nat.not_le.2 h, decide_false, Bool.false_eq_true, if_false, ne_eq, ite_not]

theorem ticks_cPush {s : State} (hs : s.RunsCommand) (x : Receiver) {nr : Bool} {r : Half}
    (hnr : s.nr = Reg.of nr) (hr : s.rcnt = Reg.of r) (hroom : s.rxf.length < s.cfg.rxfDepth) :
    Ticks 1 (s.receivingAt .cPush x) { s.receivingAt .cPush x with
      rxf := s.rxf ++ [respBits nr x.isr], rcnt := Reg.of (r - 1#16)
      phase := if r - 1#16 = 0#16 then .cIdle else .cSample } := by
  refine .rule hs.life (hs.has rfl) fun n ts =>
    (exec_cPush_room (s := (s.receivingAt .cPush x).withTurns n ts) hroom).trans (congrArg Host.Outcome.next ?_)
  have hrdNr : ((s.receivingAt .cPush x).withTurns n ts).rdNr = nr := congrArg (Reg.read · _) hnr
  have hrdRcnt : ((s.receivingAt .cPush x).withTurns n ts).rdRcnt = r := congrArg (Reg.read · _) hr
  rw [hrdNr, hrdRcnt]
  rfl

/-- Settles O27: the sample, the eight levels, and the word. -/
theorem responseByteReceived : Obligations.ResponseByteReceived := by
  intro s l b7 b6 b5 b4 b3 b2 b1 b0 ds r ts hl hv hp hoe hdc hrst hrcnt hroom hdd hts
  have hs : s.RunsCommand := ⟨hl, hv⟩
  have hout := linePins_of_levels hdc hrst
  have hu : (s.sampled (l != s.cfg.readyLevel)).RunsCommand := ⟨hl, hv⟩
  have hsample := ticks_cSample hs hoe hout hp hdd
  have hlevels := ticks_levels hu hoe { isr := 0#8, bitcnt := 8#4, dd := _ } [b7, b6, b5, b4, b3, b2, b1, b0]
    (List.cons_ne_nil _ _) le_rfl rfl (ds := ds) rfl
  have hpush := ticks_cPush hu { isr := [b7, b6, b5, b4, b3, b2, b1, b0].foldl shiftIn 0#8, bitcnt := 0#4, dd := ds }
    rfl hrcnt hroom
  have hall : Ticks 26 s _ := (hsample.trans hlevels).trans hpush
  refine ⟨_, hall.run hts, ?_, rfl, rfl, rfl, hoe, hout.symm, rfl, rfl, rfl, rfl⟩
  rw [← respBits_shiftIn]
  rfl

end Sys2Proof.Machine
end

section
/-! PROOFS. The phase rules of the two programs as masks on the pin register (O17, O21 to O24). -/

namespace Sys2Proof.Machine

/-! ### Lines as masks (10_state.md R22) -/

theorem State.setDc_high (s : State) : s.setDc true = s.drive (s.pinsOut ||| 0b010#3) s.pinsOe := by
  obtain ⟨_, _, _, hhigh, _⟩ := setLine_masks s.pinsOut
  rw [State.setDc, hhigh]

theorem State.setDc_low (s : State) : s.setDc false = s.drive (s.pinsOut &&& 0b101#3) s.pinsOe := by
  obtain ⟨_, _, hlow, _⟩ := setLine_masks s.pinsOut
  rw [State.setDc, hlow]

theorem State.setDdOe_on (s : State) : s.setDdOe true = s.drive s.pinsOut (s.pinsOe ||| 0b001#3) := by
  obtain ⟨_, hon, _⟩ := setLine_masks s.pinsOe
  rw [State.setDdOe, hon]

theorem State.setDdOe_off (s : State) : s.setDdOe false = s.drive s.pinsOut (s.pinsOe &&& 0b110#3) := by
  obtain ⟨hoff, _⟩ := setLine_masks s.pinsOe
  rw [State.setDdOe, hoff]

/-- Strobe and reset low at once (40_link_engine.md R141). -/
theorem setLine_assert (v : BitVec 3) : setLine (setLine v 1 false) 2 false = v &&& 0b001#3 := by
  revert v; decide

/-- A bit shifted in from bit 0 is appended to the bits that stay. -/
theorem shiftLeft_or_bit {w : Nat} (x : BitVec (w + 1)) (b : Bool) :
    (x <<< 1) ||| (BitVec.ofBool b).zeroExtend (w + 1) = x.extractLsb' 0 w ++ BitVec.ofBool b := by
  ext i hi
  cases i with
  | zero => simp [BitVec.getElem_append]
  | succ i => simp [BitVec.getElem_append, BitVec.getLsbD_eq_getElem (Nat.lt_of_succ_lt hi)]

/-! ### The attach program (40_link_engine.md R132, R141 to R149) -/

/-- Settles O17: each rule is its definition, with its lines as masks. -/
theorem attachPhases : Obligations.AttachPhases := by
  intro s
  obtain ⟨hoff, _⟩ := setLine_masks s.pinsOe
  obtain ⟨_, _, _, _, _, hrelease⟩ := setLine_masks s.pinsOut
  rw [← setLine_assert, ← hoff, ← s.setDc_high, ← s.setDc_low, ← hrelease]
  exact ⟨rfl, rfl, rfl, rfl, rfl, rfl, rfl, rfl, rfl, rfl⟩

/-! ### The strobe of a bit (40_link_engine.md R155, R156, R162) -/

theorem exec_cTxhi (s : State) :
    exec .cTxhi s = .next { s.drive (s.pinsOut ||| 0b010#3) s.pinsOe with phase := .cTxhold } := by
  rw [← s.setDc_high]; rfl

theorem exec_cTxhold (s : State) : exec .cTxhold s = .next { s with phase := .cTxlo } := rfl

theorem exec_cRxhi (s : State) :
    exec .cRxhi s = .next { s.drive (s.pinsOut ||| 0b010#3) s.pinsOe with phase := .cRxhold } := by
  rw [← s.setDc_high]; rfl

/-- The mask that raises the strobe leaves the data line and reset. -/
theorem levels_strobeHigh (v : BitVec 3) :
    dcOf (v ||| 0b010#3) = true ∧ ddOf (v ||| 0b010#3) = ddOf v ∧ rstnOf (v ||| 0b010#3) = rstnOf v := by
  obtain ⟨_, _, _, hhigh, _⟩ := setLine_masks v
  rw [← hhigh]
  exact ⟨dcOf_setLine_strobe v true, ddOf_setLine_strobe v true, rstnOf_setLine_strobe v true⟩

/-- Settles O21: the mask of the rise touches the strobe alone. -/
theorem strobePhases : Obligations.StrobePhases := fun s =>
  ⟨⟨_, exec_cTxhi s, rfl, levels_strobeHigh s.pinsOut⟩, exec_cTxhold s,
    ⟨_, exec_cRxhi s, rfl, levels_strobeHigh s.pinsOut⟩⟩

/-! ### A transmitted bit (40_link_engine.md R153 to R157) -/

theorem exec_cDirout (s : State) :
    exec .cDirout s = .next { s.drive s.pinsOut (s.pinsOe ||| 0b001#3) with phase := .cTxset } := by
  rw [← s.setDdOe_on]; rfl

/-- The bit on the line is the top bit of OSR, and is appended to WCNT where it is a count bit. -/
theorem exec_cTxset (s : State) :
    exec .cTxset s = .next { s.setDd (s.rdOsr.getLsbD 31) with
      wcnt := if s.rdTxseg = .segCnt then Reg.of (s.rdWcnt.extractLsb' 0 15 ++ BitVec.ofBool (s.rdOsr.getLsbD 31))
        else s.wcnt
      osr := Reg.of (s.rdOsr <<< 1)
      phase := .cTxhi } := by
  rw [← shiftLeft_or_bit]
  rfl

/-- Settles O22: the rules of the phases, the bit on the line as `setLine` sets it. -/
theorem sendPhases : Obligations.SendPhases := fun s =>
  ⟨⟨_, exec_cTxset s, rfl, ddOf_setLine_data _ _, dcOf_setLine_data _ _, rstnOf_setLine_data _ _⟩, exec_cDirout s,
    exec_cTxhi s, exec_cTxhold s⟩

theorem nextByte_last (s : State) {w : Half} (o : BitVec 3) (h : w = 0#16) :
    s.nextByte w o = { s with phase := .cDirin } := if_pos h

theorem nextByte_more (s : State) {w : Half} (o : BitVec 3) (h : w ≠ 0#16) :
    s.nextByte w o = { s with
      txseg := Reg.of .segData, bitcnt := Reg.of 8#4, phase := if o = 0#3 then .cRefill else .cTxset } := if_neg h

theorem exec_cTxlo_bit {s : State} (h : s.rdBitcnt - 1#4 ≠ 0#4) :
    exec .cTxlo s = .next { s.setDc false with bitcnt := Reg.of (s.rdBitcnt - 1#4), phase := .cTxset } :=
  congrArg Host.Outcome.next (if_pos h)

/-- Settles O23: a bit inside its segment, the end of the opcode bits of a simple frame, the end of the opcode byte and
the end of a payload byte, of which the last two go on by `NEXT`. -/
theorem transmitLow : Obligations.TransmitLow := by
  intro s
  rw [← s.setDc_low]
  refine ⟨exec_cTxlo_bit, exec_cTxlo_op, fun hb hg => ?header, fun hb hg => ?data⟩
  case header =>
    rw [exec_cTxlo_header hb hg.symm]
    exact ⟨fun hw => congrArg Host.Outcome.next (nextByte_last _ _ hw),
      fun hw => congrArg Host.Outcome.next (nextByte_more _ _ hw)⟩
  case data =>
    rw [exec_cTxlo_data hb hg]
    refine ⟨fun hw => congrArg Host.Outcome.next ((nextByte_last _ _ hw).trans ?_),
      fun hw => congrArg Host.Outcome.next (nextByte_more _ _ hw)⟩
    rw [hw]

/-! ### A received byte (40_link_engine.md R160 to R165) -/

theorem exec_cDirin (s : State) :
    exec .cDirin s = .next { s.drive s.pinsOut (s.pinsOe &&& 0b110#3) with
      phase := if s.rdRcnt = 0#16 then .cIdle else .cSample } := by
  rw [← s.setDdOe_off]; rfl

/-- The level is sampled before the strobe falls, and appended to ISR. -/
theorem exec_cRxlo (s : State) :
    exec .cRxlo s = .next { { s with target := s.presented }.drive (s.pinsOut &&& 0b101#3) s.pinsOe with
      isr := Reg.of (s.rdIsr.extractLsb' 0 7 ++ BitVec.ofBool (s.ddIn s.responseBit))
      bitcnt := Reg.of (s.rdBitcnt - 1#4)
      phase := if s.rdBitcnt - 1#4 = 0#4 then .cPush else .cRxhi
      dd := s.dd.tail } := by
  rw [← shiftLeft_or_bit, ← ite_not, exec, execCRxlo, State.setDc_low]

theorem exec_cPush_full {s : State} (h : s.cfg.rxfDepth ≤ s.rxf.length) : exec .cPush s = .next s :=
  congrArg Host.Outcome.next (if_pos (decide_eq_true h))

/-- Settles O24: the rules of the phases; the push where RXF has room is that of a response byte received. -/
theorem receivePhases : Obligations.ReceivePhases := fun s =>
  ⟨exec_cDirin s, rfl, exec_cRxhi s, rfl, exec_cRxlo s, exec_cPush_full, exec_cPush_room⟩

end Sys2Proof.Machine
end

section
/-! PROOFS. The lifecycle operations: load, start and deinit (O11), abort and stop (O12), and the two composed of
them (O13, O14). -/

namespace Sys2Proof.Machine

/-! ### What a lifecycle operation requires (10_state.md R35, 40_link_engine.md R133 to R139) -/

theorem lifecycle_accepts {s : State} {l : Life} (ho : s.owner = .held) (hl : s.life = l) :
    (s.held && s.life == l) = true := by
  rw [s.held_eq_true.2 ho, hl, beq_self_eq_true, Bool.true_and]

theorem lifecycle_refuses {s : State} {l : Life} (h : s.life ≠ l ∨ s.owner = .free) :
    (s.held && s.life == l) = false := by
  obtain hl | ho := h
  · rw [beq_false_of_ne hl, Bool.and_false]
  · rw [State.held, ho]; rfl

section Accepted
variable {s : State} (ho : s.owner = .held)
include ho

theorem exec_leLoad {v : Variant} (hl : s.life = .unloaded) (hv : v ≠ .vNone) :
    exec (.leLoad v) s = .next ((s.load v).ret .unit) :=
  issue_accepted _ _ (Bool.and_eq_true_iff.2 ⟨lifecycle_accepts ho hl, bne_iff_ne.2 hv⟩)

theorem exec_leStart (hl : s.life = .loaded) : exec .leStart s = .next (s.start.ret .unit) :=
  issue_accepted _ _ (lifecycle_accepts ho hl)

theorem exec_leStop (hl : s.life = .running) : exec .leStop s = .next (s.stop.ret .unit) :=
  issue_accepted _ _ (lifecycle_accepts ho hl)

theorem exec_leAbort (hl : s.life = .running) : exec .leAbort s = .next (s.abort.ret .unit) :=
  issue_accepted _ _ (lifecycle_accepts ho hl)

theorem exec_leDeinit (hl : s.life = .loaded) : exec .leDeinit s = .next (s.deinit.ret .unit) :=
  issue_accepted _ _ (lifecycle_accepts ho hl)

theorem exec_leSwitch {v : Variant} (hv : v ≠ .vNone) : exec (.leSwitch v) s = .next ((s.switch v).ret .unit) :=
  issue_accepted _ _ (Bool.and_eq_true_iff.2 ⟨s.held_eq_true.2 ho, bne_iff_ne.2 hv⟩)

theorem exec_leAttach : exec .leAttach s = .next (((s.teardown.load .vAttach).start).push [.waitDone]) :=
  issue_accepted _ _ (s.held_eq_true.2 ho)

end Accepted

/-- Settles O11: each operation where its requirement holds, and where it does not. -/
theorem loadStartDeinit : Obligations.LoadStartDeinit := by
  intro s v
  refine ⟨fun ho => exec_leLoad ho, fun ho => exec_leStart ho, fun ho => exec_leDeinit ho,
    fun h => ?load, fun h => ?started⟩
  case load =>
    refine issue_refused _ _ (Bool.and_eq_false_iff.2 ?_)
    obtain hl | hv | ho := h
    · exact .inl (lifecycle_refuses (.inl hl))
    · exact .inr (bne_eq_false_iff_eq.2 hv)
    · exact .inl (lifecycle_refuses (.inr ho))
  case started => exact ⟨issue_refused _ _ (lifecycle_refuses h), issue_refused _ _ (lifecycle_refuses h)⟩

/-- Settles O12: the abort, which a stop follows by leaving the program. -/
theorem abortAndStop : Obligations.AbortAndStop := by
  intro s
  refine ⟨fun h => ⟨issue_refused _ _ (lifecycle_refuses h), issue_refused _ _ (lifecycle_refuses h)⟩,
    fun ho hl => ⟨s.abort.ret .unit, exec_leAbort ho hl, rfl, ?_⟩⟩
  obtain ⟨hdc, hddOe, hdd, hrst⟩ := s.abort_pins
  exact ⟨hdd, hdc, hrst, hddOe, dcOf_setLine_data _ _, rstnOf_setLine_data _ _, exec_leStop ho hl⟩

/-! ### Operations composed of others (40_link_engine.md R138, R139) -/

theorem execAll_next {i : Instr} {is : List Instr} {s t : State} {o : Host.Outcome State Fault Refusal}
    (h : exec i s = .next t) (h' : execAll is t = o) : execAll (i :: is) s = o := by
  rw [execAll, h]
  exact h'

theorem State.teardown_running {s : State} (h : s.life = .running) : s.teardown = s.stop.deinit := by
  rw [State.teardown, h]

theorem State.teardown_loaded {s : State} (h : s.life = .loaded) : s.teardown = s.deinit := by
  rw [State.teardown, h]

theorem State.teardown_unloaded {s : State} (h : s.life = .unloaded) : s.teardown = s := by
  rw [State.teardown, h]

theorem State.switch_same {s : State} {v : Variant} (hl : s.life = .running) (hv : s.variant = v) : s.switch v = s :=
  if_pos ⟨hl, hv⟩

theorem State.switch_other {s : State} {v : Variant} (h : s.life = .running → s.variant ≠ v) :
    s.switch v = (s.teardown.load v).start := if_neg fun ⟨hl, hv⟩ => h hl hv

section Switch
variable {s : State} {v : Variant} (ho : s.owner = .held) (hv : v ≠ .vNone)
include ho hv

/-- The last two operations of a switch. -/
theorem execAll_loadStart (hl : s.life = .unloaded) :
    execAll [.leLoad v, .leStart] s = .next ((s.load v).start.ret .unit) :=
  execAll_next (exec_leLoad ho hl hv) (execAll_next (exec_leStart ho rfl) rfl)

/-- The last three. -/
theorem execAll_deinitLoadStart (hl : s.life = .loaded) :
    execAll [.leDeinit, .leLoad v, .leStart] s = .next ((s.deinit.load v).start.ret .unit) :=
  execAll_next (exec_leDeinit ho hl) (execAll_loadStart ho hv rfl)

/-- All four. -/
theorem execAll_stopDeinitLoadStart (hl : s.life = .running) :
    execAll [.leStop, .leDeinit, .leLoad v, .leStart] s = .next ((s.stop.deinit.load v).start.ret .unit) :=
  execAll_next (exec_leStop ho hl) (execAll_deinitLoadStart ho hv rfl)

end Switch

/-- Settles O13: a switch tears down what each lifecycle state needs torn down. -/
theorem switchExpands : Obligations.SwitchExpands := by
  intro s v ho hv
  rw [exec_leSwitch ho hv]
  refine ⟨fun hl hsame => ?same, fun hl hother => ?running, fun hl => ?loaded, fun hl => ?unloaded,
    (s.switch v).ret .unit, rfl, ?frame⟩
  case same => rw [State.switch_same hl hsame]; rfl
  case running =>
    rw [execAll_stopDeinitLoadStart ho hv hl, State.switch_other fun _ => hother, State.teardown_running hl]
  case loaded =>
    rw [execAll_deinitLoadStart ho hv hl, State.switch_other (by simp [hl]), State.teardown_loaded hl]
  case unloaded =>
    rw [execAll_loadStart ho hv hl, State.switch_other (by simp [hl]), State.teardown_unloaded hl]
  case frame =>
    rw [State.switch_frame]
    exact ⟨rfl, rfl, rfl, rfl, rfl⟩

/-- Settles O14: the attach program starts from what the lifecycle state leaves torn down. -/
theorem attachBegins : Obligations.AttachBegins := by
  intro s ho
  rw [exec_leAttach ho]
  refine ⟨fun hl => ?unloaded, fun hl => ?loaded, fun hl => ⟨_, exec_leStop ho hl, ?running⟩, fun _ => rfl⟩
  case unloaded => rw [State.teardown_unloaded hl]; rfl
  case loaded => rw [State.teardown_loaded hl]; rfl
  case running => rw [State.teardown_running hl]; rfl

end Sys2Proof.Machine
end

section
/-! PROOFS. What a turn of the sequencer in the command program does to the lines (O54). -/

namespace Sys2Proof.Machine

/-! ### The lines after a phase rule -/

/-- What a rule of the command program at phase `p` can do to the pins: nothing, move the strobe, switch the data line's
driver, or put a level on the data line (40_link_engine.md R168). -/
inductive LineMove (p : Phase) (s t : State) : Prop
  | rest (hout : t.pinsOut = s.pinsOut) (hoe : t.pinsOe = s.pinsOe)
  | strobe (b : Bool) (hout : t.pinsOut = setLine s.pinsOut 1 b) (hoe : t.pinsOe = s.pinsOe)
  | direction (b : Bool) (hp : p = .cDirout ∨ p = .cDirin) (hout : t.pinsOut = s.pinsOut)
      (hoe : t.pinsOe = setLine s.pinsOe 0 b)
  | level (b : Bool) (hp : p = .cTxset) (hout : t.pinsOut = setLine s.pinsOut 0 b) (hoe : t.pinsOe = s.pinsOe)

theorem takeSimple_line (p : Phase) (s : State) (txf : List Word) (w : Word) :
    LineMove p s (State.takeSimple { s with txf := txf } w) := by
  unfold State.takeSimple
  split <;> exact .rest rfl rfl

theorem takeStream0_line (p : Phase) (s : State) (txf : List Word) (w : Word) :
    LineMove p s (State.takeStream0 { s with txf := txf } w) := by
  unfold State.takeStream0
  split <;> exact .rest rfl rfl

theorem nextByte_pins (s : State) (w : Half) (o : BitVec 3) :
    (s.nextByte w o).pinsOut = s.pinsOut ∧ (s.nextByte w o).pinsOe = s.pinsOe := by
  unfold State.nextByte
  split <;> exact ⟨rfl, rfl⟩

/-- The end of a transmitted bit is a fall of the strobe, whatever follows it (40_link_engine.md R157). -/
theorem execCTxlo_line (p : Phase) {s t : State} (h : exec .cTxlo s = .next t) : LineMove p s t := by
  obtain rfl := Host.Outcome.next.inj h
  have hnext {u : State} (w : Half) (o : BitVec 3)
      (hout' : u.pinsOut = setLine s.pinsOut 1 false) (hoe' : u.pinsOe = s.pinsOe) : LineMove p s (u.nextByte w o) := by
    obtain ⟨hout, hoe⟩ := nextByte_pins u w o
    exact .strobe false (hout.trans hout') (hoe.trans hoe')
  dsimp only
  split
  · exact .strobe false rfl rfl
  · split
    · split
      · exact .strobe false rfl rfl
      · exact hnext _ _ rfl rfl
    · exact hnext _ _ rfl rfl
    · exact hnext _ _ rfl rfl

theorem exec_rule_line {v : Variant} {p : Phase} {s t : State} (hp : v.has p = true) (hv : v ≠ .vAttach)
    (he : exec (ruleOf v p) s = .next t) : LineMove p s t := by
  cases p
  case pStopped | atAssert | atHold | atHi | atHihold | atLo | atLohold | atRelease | atSettle | atDone =>
    cases v with
    | vAttach => exact absurd rfl hv
    | _ => cases hp
  case cTxlo => exact execCTxlo_line _ he
  case cIdle =>
    rw [ruleOf] at he
    split at he <;> obtain rfl := Host.Outcome.next.inj he <;> split
    exacts [.rest rfl rfl, takeSimple_line _ s _ _, .rest rfl rfl, .rest rfl rfl]
  all_goals obtain rfl := Host.Outcome.next.inj he
  case cFetch0 => split; exacts [.rest rfl rfl, takeStream0_line _ s _ _]
  case cRefill => split; exacts [.rest rfl rfl, .rest rfl rfl]
  case cPush => split; exacts [.rest rfl rfl, .rest rfl rfl]
  case cDirout => exact .direction true (.inl rfl) rfl rfl
  case cDirin => exact .direction false (.inr rfl) rfl rfl
  case cTxset => exact .level _ rfl rfl rfl
  case cTxhi | cRxhi => exact .strobe true rfl rfl
  case cRxlo => exact .strobe false rfl rfl
  case cTxhold | cSample | cRxhold => exact .rest rfl rfl

theorem run_seqMove_line {s t : State} (hs : s.linkLegal = true) (hv : s.variant ≠ .vAttach)
    (h : run s.seqMove = .next t) : LineMove s.phase s t := by
  rcases run_seqMove h with ⟨_, rfl⟩ | ⟨i, hl, hd, he⟩ | ⟨w, rest, _, _, hw⟩
  · exact .rest rfl rfl
  · have hp : s.variant.has s.phase = true := RunsAt.has ⟨hs, hl, rfl⟩
    obtain rfl : ruleOf s.variant s.phase = i := by
      rw [decodePhase_code hp] at hd; exact Except.ok.inj hd
    exact exec_rule_line hp hv he
  · rcases hw with ⟨_, _, w', rfl⟩ | ⟨_, _, _, _, rfl⟩ | ⟨_, w', rfl⟩ | ⟨_, _, rfl⟩
    · exact takeSimple_line _ s rest w'
    · exact .rest rfl rfl
    · exact takeStream0_line _ s rest w'
    · exact .rest rfl rfl

/-! ### The discipline -/

/-- One line moves at a time, and the data line while the strobe is as its phase has it: low. -/
theorem LineMove.discipline {s t : State} (h : LineMove s.phase s t) (hs : s.linkLegal = true) :
    (t.ddOe ≠ s.ddOe → (s.phase = .cDirout ∨ s.phase = .cDirin) ∧ s.dcOut = false ∧ t.dcOut = false) ∧
      (t.ddOut ≠ s.ddOut → s.phase = .cTxset ∧ s.dcOut = false ∧ t.dcOut = false) ∧
      (t.dcOut ≠ s.dcOut → t.ddOe = s.ddOe ∧ t.ddOut = s.ddOut) := by
  obtain ⟨_, _, hpins, _⟩ := s.linkLegal_iff.1 hs
  obtain ⟨hdc, _⟩ := levels_of_pinsAt hpins
  simp only [State.ddOe, State.ddOut, State.dcOut]
  cases h with
  | rest hout hoe => rw [hout, hoe]; simp
  | strobe b hout hoe => rw [hout, hoe]; simp
  | direction b hp hout hoe =>
    have hlow : dcOf s.pinsOut = false := by rw [hdc]; obtain hp | hp := hp <;> rw [hp] <;> rfl
    rw [hout]; simp [hp, hlow]
  | level b hp hout hoe =>
    have hlow : dcOf s.pinsOut = false := by rw [hdc, hp]; rfl
    rw [hout, hoe]; simp [hp, hlow]

/-- Reset is high wherever the attach program is not loaded. -/
theorem rstnOut_high {s : State} (hs : s.linkLegal = true) (hv : s.variant ≠ .vAttach) : s.rstnOut = true := by
  obtain ⟨_, hlife, hpins, _⟩ := s.linkLegal_iff.1 hs
  have hhigh : s.phase.resetLow = false := by
    cases hl : s.life with
    | running =>
      rw [State.lifeLegal, hl] at hlife
      exact Variant.has_resetHigh hlife hv
    | loaded | unloaded =>
      simp only [State.lifeLegal, hl, Bool.and_eq_true, beq_iff_eq] at hlife
      obtain ⟨_, hp⟩ := hlife
      rw [hp]; rfl
  obtain ⟨_, hrst⟩ := levels_of_pinsAt hpins
  rw [State.rstnOut, hrst, hhigh]; rfl

/-- Settles O54: a turn of the sequencer moves one line at most, and keeps the invariant, so the variant it leaves has
reset high. -/
theorem directionDiscipline : Obligations.DirectionDiscipline := by
  intro s t hs hm hv h
  have hseq : run s.begin.seqMove = .next t := (step_sequencer hm).symm.trans h
  obtain ⟨hoe, hout, hdc⟩ := (run_seqMove_line (s := s.begin) hs hv hseq).discipline hs
  obtain ⟨hframe, _⟩ := run_seqMove_frame hseq
  have hvariant : t.variant = (s.begin.seqFrom t).variant := congrArg State.variant hframe
  exact ⟨hoe, hout, hdc, rstnOut_high (stepKeepsLinkLegal s t hs h) (by rw [hvariant]; exact hv)⟩

end Sys2Proof.Machine
end

section
/-! PROOFS. The run of the attach program, phase after phase (O18). -/

namespace Sys2Proof.Machine

/-! ### The pins of the attach program -/

/-- The pins as a phase of the attach program has them. -/
def attachPins (p : Phase) (data : Bool) : BitVec 3 :=
  BitVec.ofBool (!p.resetLow) ++ BitVec.ofBool p.strobeHigh ++ BitVec.ofBool data

@[simp] theorem ddOf_attachPins (p : Phase) (data : Bool) : ddOf (attachPins p data) = data :=
  (by decide : ∀ a b c : Bool, ddOf (BitVec.ofBool a ++ BitVec.ofBool b ++ BitVec.ofBool c) = c) _ _ _
@[simp] theorem dcOf_attachPins (p : Phase) (data : Bool) : dcOf (attachPins p data) = p.strobeHigh :=
  (by decide : ∀ a b c : Bool, dcOf (BitVec.ofBool a ++ BitVec.ofBool b ++ BitVec.ofBool c) = b) _ _ _
@[simp] theorem rstnOf_attachPins (p : Phase) (data : Bool) : rstnOf (attachPins p data) = !p.resetLow :=
  (by decide : ∀ a b c : Bool, rstnOf (BitVec.ofBool a ++ BitVec.ofBool b ++ BitVec.ofBool c) = a) _ _ _

/-- Where strobe and reset have the levels of a phase, the pins are that phase's. -/
theorem eq_attachPins {p : Phase} {v : BitVec 3} (hdc : dcOf v = p.strobeHigh) (hrst : rstnOf v = !p.resetLow) :
    v = attachPins p (ddOf v) :=
  pins_ext (by rw [ddOf_attachPins]) (by rw [hdc, dcOf_attachPins]) (by rw [hrst, rstnOf_attachPins])

/-- The strobe moves between two phases with reset at one level. -/
theorem setLine_strobe_attachPins {p q : Phase} (h : q.resetLow = p.resetLow) (data : Bool) :
    setLine (attachPins p data) 1 q.strobeHigh = attachPins q data :=
  pins_ext (by simp) (by simp) (by simp [h])

/-! ### What the target sees of them (20_memory.md R79) -/

theorem Target.sees_assert (t : Target) (n : Nat) (data : Bool) (oe oe' : BitVec 3) :
    t.sees n (attachPins .atAssert data) oe (attachPins .atHold data) oe' = t.hold n := by
  simp [Target.sees, Phase.resetLow]

theorem Target.sees_attachRise (t : Target) (n : Nat) (data : Bool) (oe : BitVec 3) :
    t.sees n (attachPins .atHi data) oe (attachPins .atHihold data) oe = t := by
  simp [Target.sees, Phase.resetLow, Phase.strobeHigh]

theorem Target.sees_attachFall (t : Target) (n : Nat) (data : Bool) (oe oe' : BitVec 3) :
    t.sees n (attachPins .atLo data) oe (attachPins .atLohold data) oe' = { t with falls := t.falls + 1 } := by
  simp [Target.sees, Phase.resetLow, Phase.strobeHigh]

theorem Target.sees_release (t : Target) (n : Nat) (data : Bool) (oe oe' : BitVec 3) :
    t.sees n (attachPins .atRelease data) oe (attachPins .atSettle data) oe' =
      { t with inDebug := t.falls == nAttachFalls } := by
  simp [Target.sees, Phase.resetLow, Phase.strobeHigh]

/-! ### The engine while it attaches -/

/-- The engine of `s` at a phase of the attach program, `h` ticks of a hold to go and `k` falling edges made, which are
those the target has counted (40_link_engine.md R140). -/
def State.attachingAt (s : State) (p : Phase) (h k : Nat) : State :=
  { s with
    phase := p, pinsOut := attachPins p s.ddOut, pinsOe := 0b110#3, holdcnt := Reg.of h
    falls := Reg.of (BitVec.ofNat 2 k), target := { s.target with falls := k } }

/-- The target of `s` in debug mode. -/
def State.debugged (s : State) : State := { s with target := { s.target with inDebug := true } }

/-- `s` with its turn taken and the target reset (20_memory.md R82). -/
def State.resetTaken (s : State) : State := { s.begin with target := s.target.hold s.begin.clock }

/-- The engine runs the attach program. -/
structure State.RunsAttach (s : State) : Prop where
  life : s.life = .running
  variant : s.variant = .vAttach

theorem State.RunsAttach.has {s : State} (hs : s.RunsAttach) {p : Phase} (hp : Variant.vAttach.has p = true) :
    s.variant.has p = true := hs.variant ▸ hp

section Attaching
variable {s : State}

/-- A hold takes as many ticks as HOLDCNT says, where each but the last counts it down (40_link_engine.md R142,
R148). -/
theorem ticks_countdown {p : Phase} {n k : Nat} {t : State} (hn : 1 ≤ n)
    (hcount : ∀ h : Nat, Ticks 1 (s.attachingAt p (h + 2) k) (s.attachingAt p (h + 1) k))
    (hlast : Ticks 1 (s.attachingAt p 1 k) t) : Ticks n (s.attachingAt p n k) t := by
  induction n, hn using Nat.le_induction with
  | base => exact hlast
  | succ h hle ih =>
    obtain ⟨h, rfl⟩ := Nat.exists_eq_add_of_le' hle
    exact ((hcount h).trans ih).cast (Nat.add_comm _ _)

variable (hs : s.RunsAttach)
include hs

theorem ticks_atHold {n : Nat} (hn : 1 ≤ n) (k : Nat) :
    Ticks n (s.attachingAt .atHold n k) (s.attachingAt .atHi 0 k) :=
  ticks_countdown hn (fun _ => .rule hs.life (hs.has rfl) fun _ _ => rfl) (.rule hs.life (hs.has rfl) fun _ _ => rfl)

theorem ticks_atSettle {n : Nat} (hn : 1 ≤ n) (k : Nat) :
    Ticks n (s.attachingAt .atSettle n k) { s.attachingAt .atDone 0 k with leDone := true } :=
  ticks_countdown hn (fun _ => .rule hs.life (hs.has rfl) fun _ _ => rfl) (.rule hs.life (hs.has rfl) fun _ _ => rfl)

theorem ticks_atHi (h k : Nat) : Ticks 1 (s.attachingAt .atHi h k) (s.attachingAt .atHihold h k) := by
  have hrise (n : Nat) (ts : List Agent) : ((s.attachingAt .atHi h k).withTurns n ts).setDc true =
      { (s.attachingAt .atHihold h k).withTurns n ts with phase := .atHi } :=
    State.drive_eq (setLine_strobe_attachPins (p := .atHi) (q := .atHihold) rfl _) (Target.sees_attachRise _ _ _ _)
  refine .rule hs.life (hs.has rfl) fun n ts => congrArg Host.Outcome.next ?_
  rw [hrise]
  rfl

theorem ticks_atLo (h k : Nat) : Ticks 1 (s.attachingAt .atLo h k) (s.attachingAt .atLohold h (k + 1)) := by
  have hfall (n : Nat) (ts : List Agent) : ((s.attachingAt .atLo h k).withTurns n ts).setDc false =
      { (s.attachingAt .atLohold h (k + 1)).withTurns n ts with
        phase := .atLo, falls := Reg.of (BitVec.ofNat 2 k) } :=
    State.drive_eq (setLine_strobe_attachPins (p := .atLo) (q := .atLohold) rfl _) (Target.sees_attachFall _ _ _ _ _)
  refine .rule hs.life (hs.has rfl) fun n ts => congrArg Host.Outcome.next ?_
  rw [hfall, State.attachingAt, BitVec.ofNat_add]
  rfl

/-- The strobe rises, holds, falls and holds (40_link_engine.md R143 to R146). -/
theorem ticks_edge (h k : Nat) :
    Ticks 4 (s.attachingAt .atHi h k)
      (s.attachingAt (if (BitVec.ofNat 2 (k + 1)).toNat < nAttachFalls then .atHi else .atRelease) h (k + 1)) := by
  have hhold : Ticks 1 (s.attachingAt .atHihold h k) (s.attachingAt .atLo h k) :=
    .rule hs.life (hs.has rfl) fun _ _ => rfl
  have hnext : Ticks 1 (s.attachingAt .atLohold h (k + 1)) (s.attachingAt
      (if (BitVec.ofNat 2 (k + 1)).toNat < nAttachFalls then .atHi else .atRelease) h (k + 1)) := by
    refine .rule hs.life (hs.has rfl) fun n ts => congrArg Host.Outcome.next ?_
    have hrd : ((s.attachingAt .atLohold h (k + 1)).withTurns n ts).rdFalls = BitVec.ofNat 2 (k + 1) := rfl
    rw [hrd]
    split <;> rfl
  exact (((ticks_atHi hs h k).trans hhold).trans (ticks_atLo hs h k)).trans hnext

/-- Reset rises after the second edge (40_link_engine.md R147). -/
theorem ticks_atRelease (h : Nat) :
    Ticks 1 (s.attachingAt .atRelease h 2) (s.debugged.attachingAt .atSettle s.cfg.nRstHold 2) := by
  have hlines : setLine (attachPins .atRelease s.ddOut) 2 true = attachPins .atSettle s.ddOut :=
    pins_ext (by simp) (by simp [Phase.strobeHigh]) (by simp [Phase.resetLow])
  refine .rule hs.life (hs.has rfl) fun n ts => congrArg Host.Outcome.next ?_
  have hrelease := State.drive_eq (s := (s.attachingAt .atRelease h 2).withTurns n ts) (oe := 0b110#3) hlines
    (Target.sees_release _ _ _ _ _)
  exact congrArg (fun u : State => { u with holdcnt := Reg.of s.cfg.nRstHold, phase := .atSettle }) hrelease

/-- The program after reset has gone low (40_link_engine.md R140). -/
theorem ticks_attach {n : Nat} (hn : 1 ≤ n) (hcfg : s.cfg.nRstHold = n) :
    Ticks (2 * n + 9) (s.attachingAt .atHold n 0) { s.debugged.attachingAt .atDone 0 2 with leDone := true } := by
  have hd : s.debugged.RunsAttach := ⟨hs.life, hs.variant⟩
  have hrelease := ticks_atRelease hs 0
  rw [hcfg] at hrelease
  have hedges : Ticks 8 (s.attachingAt .atHi 0 0) (s.attachingAt .atRelease 0 2) :=
    (ticks_edge hs 0 0).trans (ticks_edge hs 0 1)
  exact ((((ticks_atHold hs hn 0).trans hedges).trans hrelease).trans (ticks_atSettle hd hn 2)).cast (by omega)

end Attaching

/-- Reset goes low with the pins at rest (40_link_engine.md R141); the target is reset. -/
theorem step_atAssert {s : State} (hs : s.RunsAttach) (hm : s.mover = .sequencer) (hp : s.phase = .atAssert)
    (hoe : s.pinsOe = 0b110#3) (hdc : s.dcOut = false) (hrst : s.rstnOut = true) :
    step s = .next (s.resetTaken.attachingAt .atHold s.cfg.nRstHold 0) := by
  have hidle : s.pinsOut = attachPins .atAssert s.ddOut := eq_attachPins hdc hrst
  have hlines : setLine (setLine s.pinsOut 1 false) 2 false = attachPins .atHold s.ddOut :=
    pins_ext (by simp [State.ddOut]) (by simp [Phase.strobeHigh]) (by simp [Phase.resetLow])
  have hoff : setLine s.pinsOe 0 false = 0b110#3 := by rw [hoe]; decide
  have hsees : s.begin.target.sees s.begin.clock s.pinsOut s.pinsOe (attachPins .atHold s.ddOut) 0b110#3 =
      s.target.hold s.begin.clock := by
    rw [hidle]
    exact Target.sees_assert _ _ _ _ _
  have hdrive := State.drive_eq (s := s.begin) hlines hsees
  rw [step_rule hm hs.life (hp ▸ hs.has rfl), hp]
  refine congrArg Host.Outcome.next ?_
  rw [State.begin_pinsOut, State.begin_pinsOe, hoff, hdrive]
  rfl

/-- Settles O18: reset goes low, and the rest of the program runs to its end. -/
theorem attachRun : Obligations.AttachRun := by
  intro s n ts hl hv hp hoe hdc hrst hcfg hn hts
  have hs : s.RunsAttach := ⟨hl, hv⟩
  have hturns : s.turns = .sequencer :: (List.replicate (2 * n + 9) .sequencer ++ ts) := hts
  have hm : s.mover = .sequencer := by rw [State.mover, hturns]
  have hfirst := run_one (step_atAssert hs hm hp hoe hdc hrst)
  rw [hcfg] at hfirst
  have hrest := (ticks_attach (s := s.resetTaken) ⟨hl, hv⟩ hn hcfg).run (ts := ts) (congrArg List.tail hturns)
  have hrun := run_add hfirst hrest
  rw [show 1 + (2 * n + 9) = 2 * n + 10 by omega] at hrun
  have hpins : attachPins .atDone s.ddOut = s.pinsOut := (eq_attachPins (p := .atDone) hdc hrst).symm
  refine ⟨_, hrun, rfl, rfl, rfl, rfl, rfl, hpins, ?_⟩
  simp [State.withTurns, State.attachingAt, State.debugged, State.resetTaken, hl, hv]

end Sys2Proof.Machine
end

section
/-! PROOFS. The Access Layer: the frames its writes and reads push (O32), and the block a target stores from them
(O49). -/

namespace Sys2Proof.Machine

/-! ### The operations (42_access_layer.md R212 to R215) -/

theorem xdataRange_iff (a : Half) (n : Nat) : xdataRange a n = true ↔ a.toNat + n ≤ 0x10000 := decide_eq_true_iff

theorem xdataRange_beyond {a : Half} {n : Nat} (h : 0x10000 < a.toNat + n) : xdataRange a n = false :=
  decide_eq_false (Nat.not_le.2 h)

/-- Settles O32: the owner's write and read are never refused, a block is where it passes 0xFFFF. -/
theorem accessBegins : Obligations.AccessBegins := by
  intro s a v bs ho
  have hheld : s.held = true := s.held_eq_true.2 ho
  refine ⟨?write, ?read, fun hfit => ?block, fun hbeyond => ?refused⟩
  case write => exact issue_accepted _ _ hheld
  case read => exact issue_accepted _ _ hheld
  case block => exact issue_accepted _ _ (Bool.and_eq_true_iff.2 ⟨hheld, (xdataRange_iff a _).2 hfit⟩)
  case refused => exact issue_refused _ _ (by rw [xdataRange_beyond hbeyond, Bool.and_false])

/-! ### Stores without an effect of their own (20_memory.md R69) -/

/-- The registers a store to which does more than store: arm register, flash controller, flash write-data register and
debug-data buffer. -/
def effectRegisters (cfg : Config) : List Half :=
  [cfg.addrDmaarm, cfg.addrFctl, cfg.addrFwdata, cfg.addrDbgdata]

/-- The `n` addresses from `a` hold none of those registers. -/
def PlainRange (cfg : Config) (a n : Nat) : Prop := ∀ r ∈ effectRegisters cfg, r.toNat < a ∨ a + n ≤ r.toNat

theorem PlainRange.tail {cfg : Config} {a n : Nat} (h : PlainRange cfg a (n + 1)) : PlainRange cfg (a + 1) n :=
  fun r hr => (h r hr).imp (by omega) (by omega)

theorem PlainRange.head {cfg : Config} {a : Half} {n : Nat} (h : PlainRange cfg a.toNat (n + 1)) :
    a ∉ effectRegisters cfg :=
  fun hr => by have := h a hr; omega

theorem Target.stored_notEffect (t : Target) {cfg : Config} {a : Half} (v : Byte) (h : a ∉ effectRegisters cfg) :
    t.stored cfg a v = t := by
  simp only [effectRegisters, List.mem_cons, List.not_mem_nil, or_false, not_or] at h
  obtain ⟨hArm, hCtl, hData, hDbg⟩ := h
  exact t.stored_plain cfg v hArm hCtl hData hDbg

/-! ### The bytes of a block, one after the other (42_access_layer.md R216) -/

/-- `s` with the target's pointer, accumulator, response and XDATA as given. -/
def State.storing (s : State) (p : Half) (c : Byte) (r : List Bool) (m : Memory) : State :=
  { s with target := { s.target with dptr := p, acc := c, resp := r, xdata := m } }

/-- The incremented pointer is the next address, but past 0xFFFF. -/
theorem Target.incDptr_next (t : Target) (free : Half) (h : t.dptr.toNat + 1 < 65536) :
    (t.incDptr free).dptr.toNat = t.dptr.toNat + 1 := by
  have hlast : t.dptr ≠ 0xFFFF#16 := fun he => by rw [he] at h; exact absurd h (by decide)
  rw [Target.incDptr_dptr, if_neg hlast, BitVec.toNat_add]
  exact Nat.mod_eq_of_lt h

/-- One byte: it is stored at the pointer, and the pointer is incremented. -/
theorem execAll_storeByte {s : State} (h : s.target.inDebug = true) (hplain : s.target.dptr ∉ effectRegisters s.cfg)
    (b : Byte) (is : List Instr) :
    ∃ (p : Half) (r : List Bool),
      (s.target.dptr.toNat + 1 < 65536 → p.toNat = s.target.dptr.toNat + 1) ∧
      execAll (.tMovA b :: .tMovxSt :: .tIncDptr :: is) s =
        execAll is (s.storing p b r (s.target.xdata.write s.target.dptr.toNat b)) := by
  have hload : exec (.tMovA b) s = .next (s.storing s.target.dptr b (byteBits s.anyByte) s.target.xdata) :=
    exec_command_inDebug h rfl rfl
  have hstore := exec_tMovxSt_eq (s := s.storing s.target.dptr b (byteBits s.anyByte) s.target.xdata) h
    (Target.stored_notEffect _ b hplain)
  exact ⟨(s.target.incDptr (Config.freeHalf s.clock 1)).dptr, byteBits s.anyByte, s.target.incDptr_next _,
    execAll_next hload (execAll_next hstore (execAll_next (exec_command_inDebug h rfl rfl) rfl))⟩

/-- A block from the pointer on. Past 0xFFFF the pointer has no next address (20_memory.md R85), so what it holds is a
hypothesis only while a byte is left to store. -/
theorem execAll_storeInstrs (bs : List Byte) {s : State} {a : Nat} (h : s.target.inDebug = true)
    (hp : bs ≠ [] → s.target.dptr.toNat = a) (hfit : a + bs.length ≤ 65536) (hplain : PlainRange s.cfg a bs.length) :
    ∃ (p : Half) (c : Byte) (r : List Bool),
      execAll (storeInstrs bs) s = .next (s.storing p c r (s.target.xdata.writeBytes a bs)) := by
  induction bs generalizing s a with
  | nil => exact ⟨s.target.dptr, s.target.acc, s.target.resp, rfl⟩
  | cons b bs ih =>
    obtain rfl := hp (List.cons_ne_nil b bs)
    rw [List.length_cons] at hfit hplain
    obtain ⟨p, r, hnext, hbyte⟩ := execAll_storeByte h hplain.head b (storeInstrs bs)
    have hpointer : bs ≠ [] → p.toNat = s.target.dptr.toNat + 1 := fun hne =>
      hnext (by have := List.length_pos_iff.2 hne; omega)
    obtain ⟨p', c', r', hrest⟩ :=
      ih (s := s.storing p b r (s.target.xdata.write s.target.dptr.toNat b)) h hpointer (by omega) hplain.tail
    exact ⟨p', c', r', hbyte.trans hrest⟩

/-- Settles O49: the pointer is loaded with the address, and the bytes follow one after the other. -/
theorem blockStored : Obligations.BlockStored := by
  intro s a bs h hfit hArm hCtl hData hDbg
  have hplain : PlainRange s.cfg a.toNat bs.length := by
    simp only [PlainRange, effectRegisters, List.forall_mem_cons]
    exact ⟨hArm, hCtl, hData, hDbg, nofun⟩
  have hpointer : exec (.tMovDptr a) s =
      .next (s.storing a s.target.acc (byteBits s.anyByte) s.target.xdata) := exec_command_inDebug h rfl rfl
  obtain ⟨p, c, r, hrun⟩ := execAll_storeInstrs bs
    (s := s.storing a s.target.acc (byteBits s.anyByte) s.target.xdata) h (fun _ => rfl) hfit hplain
  exact ⟨_, execAll_next hpointer hrun, fun k hk => Memory.read_writeBytes_inside _ _ _ hk,
    fun k hk => Memory.read_writeBytes_outside _ _ _ hk, rfl, rfl, rfl, h, rfl⟩

end Sys2Proof.Machine
end

section
/-! PROOFS. How the operations of the pipeline go on and end: the points between two exchanges, and the tests of the
three polls (O39). -/

namespace Sys2Proof.Machine

theorem State.resultByte_bytes {s : State} {b : Byte} {bs : List Byte} (h : s.result = .bytes (b :: bs)) :
    s.resultByte = b := by
  rw [State.resultByte, h]

/-! ### The flags a poll tests -/

theorem eraseBusy_clear_iff (cfg : Config) (b : Byte) :
    (!eraseBusy cfg b) = true ↔ b &&& cfg.statusEraseBusy = 0#8 := by
  simp [eraseBusy]

theorem fctlBusySet_clear_iff (cfg : Config) (b : Byte) : (!fctlBusySet cfg b) = true ↔ b &&& cfg.fctlBusy = 0#8 := by
  simp [fctlBusySet]

/-! ### The order of the tests (60_exceptions.md R298) -/

/-- A poll that tests its flag before its ceiling: where the flag is clear the timer decides nothing. -/
theorem poll_outcomes {flag clear : Prop} [Decidable flag] {expired : Bool} {u done fails again : State}
    (hflag : flag ↔ clear) (h : u = if flag then done else if expired = true then fails else again) :
    (clear → u = done) ∧ (¬ clear → expired = false → u = again) ∧ (¬ clear → expired = true → u = fails) := by
  rw [h, ← hflag]
  refine ⟨fun hc => if_pos hc, fun hc he => ?again, fun hc he => ?fails⟩
  case again => rw [if_neg hc, if_neg (Bool.eq_false_iff.1 he)]
  case fails => rw [if_neg hc, if_pos he]

/-- Settles O39: each point is its equation in the model, and each test is a poll of its flag and its timer. -/
theorem pipelineEnds : Obligations.PipelineEnds := by
  intro s len rest
  refine ⟨rfl, rfl, rfl, rfl, rfl, rfl, rfl, rfl, rfl, rfl, fun b bs hres => ?_⟩
  obtain rfl := State.resultByte_bytes hres
  obtain ⟨eraseDone, eraseAgain, eraseFails⟩ :=
    poll_outcomes (u := stepTask .eraseTest rest s) (eraseBusy_clear_iff s.cfg s.resultByte) rfl
  obtain ⟨progDone, progAgain, progFails⟩ :=
    poll_outcomes (u := stepTask .progTest rest s) (fctlBusySet_clear_iff s.cfg s.resultByte) rfl
  obtain ⟨clockDone, clockAgain, clockFails⟩ :=
    poll_outcomes (u := stepTask .clockTest rest s) (flag := s.resultByte = s.cfg.clkStaValue) Iff.rfl rfl
  exact ⟨eraseDone, eraseAgain, eraseFails, progDone, progAgain, progFails, clockDone, clockAgain, clockFails⟩

end Sys2Proof.Machine
end

section
/-! PROOFS. Chip identity: the table and its lookup (O34, O35), and the read of the two bytes and what a session makes of
them (O36). -/

namespace Sys2Proof.Machine

/-! ### The chip-id table (43_flash_program.md R231) -/

/-- A row of the table names its own id, and leaves the others to the rows after it. -/
theorem tableRow_eq_none_iff {p : Prop} [Decidable p] {n : ChipName} {others : Option ChipName} :
    (if p then some n else others) = none ↔ ¬ p ∧ others = none := by
  split <;> simp_all

/-- An id is unidentified exactly where it is none of the six of the table. -/
theorem chipLookup_eq_none_iff (b : Byte) :
    chipLookup b = none ↔ b ∉ [0xA5#8, 0xB5#8, 0x95#8, 0x43#8, 0x44#8, 0x45#8] := by
  simp only [chipLookup, tableRow_eq_none_iff, List.mem_cons, List.not_mem_nil, not_or, not_false_eq_true, and_true]

/-- Settles O34: the lookup is the table. -/
theorem chipTable : Obligations.ChipTable := fun b => ⟨rfl, chipLookup_eq_none_iff b⟩

/-- Settles O35: the owner is never refused, and the result is the table's. -/
theorem chipLookup_completes : Obligations.ChipLookup := fun s _ ho => issue_accepted _ _ (s.held_eq_true.2 ho)

/-! ### The identity of the target (43_flash_program.md R232, R233) -/

theorem State.resultBytes_bytes {s : State} {bs : List Byte} (h : s.result = .bytes bs) : s.resultBytes = bs := by
  rw [State.resultBytes, h]

theorem State.identBytes_ident {s : State} {i r : Byte} (h : s.result = .ident i r) : s.identBytes = (i, r) := by
  rw [State.identBytes, h]

section Identify
variable {s : State} {i r : Byte} (hres : s.result = .ident i r) (rest : List Task)
include hres

/-- A session goes on with a known id, first with the clock switch where it is asked for. -/
theorem stepIdentify_known {n : ChipName} (hn : chipLookup i = some n) :
    stepIdentify rest s = { s with
      chipId := i, chipRev := r, chipName := some n, chipState := .identified
      tasks := if s.cfg.clockInit = true then .op .clockInit :: rest else rest
      result := .unit } := by
  simp only [stepIdentify, State.identBytes_ident hres, hn]

/-- With an unknown one it fails (60_exceptions.md R292). -/
theorem stepIdentify_unknown (hn : chipLookup i = none) :
    stepIdentify rest s =
      { s with chipId := i, chipRev := r, chipState := .unidentified }.raise .chipUnidentified := by
  simp only [stepIdentify, State.identBytes_ident hres, hn]

end Identify

/-- Settles O36: the exchange, the two bytes it returns, and the two ways a session goes on. -/
theorem identityRead : Obligations.IdentityRead := by
  intro s i r rest
  refine ⟨fun ho => issue_accepted _ _ (s.held_eq_true.2 ho), fun hres => ?ret,
    fun _ hres hn => stepIdentify_known hres rest hn, fun hres hn => stepIdentify_unknown hres rest hn⟩
  case ret =>
    rw [stepTask, stepIdRet, State.resultBytes_bytes hres]
    rfl

end Sys2Proof.Machine
end

section
/-! PROOFS. The operations of the program pipeline: what each requires and begins (O37), and when one of them or a pass is
refused (O38). -/

namespace Sys2Proof.Machine

/-! ### The requirements, as propositions (43_flash_program.md R242, R246, R260) -/

theorem State.notFailed_eq_true (s : State) : s.notFailed = true ↔ s.fpState ≠ .failed := bne_iff_ne

theorem lengthLegal_iff (cfg : Config) (len : Nat) :
    lengthLegal cfg len = true ↔ 1 ≤ len ∧ len ≤ cfg.burstMax ∧ len ≤ 65534 ∧ len % 4 = 0 := by
  simp only [lengthLegal, Bool.and_eq_true, decide_eq_true_eq, beq_iff_eq, and_assoc]

theorem burstLegal_iff (cfg : Config) (a : Nat) (bs : List Byte) :
    burstLegal cfg a bs = true ↔
      a % 4 = 0 ∧ a + bs.length ≤ 262144 ∧ 1 ≤ bs.length ∧ bs.length ≤ cfg.burstMax := by
  simp only [burstLegal, Bool.and_eq_true, flashRange_iff, decide_eq_true_eq, beq_iff_eq, and_assoc]

/-- The state of the pipeline an operation asks for, beside the identified chip (R237). -/
theorem State.readyAt_eq_true (s : State) (p : FpState) :
    (s.ready && s.fpState == p) = true ↔ (s.owner = .held ∧ s.chipState = .identified) ∧ s.fpState = p := by
  rw [Bool.and_eq_true, State.ready_eq_true, beq_iff_eq]

/-! ### What an operation begins -/

section Begins
variable {s : State} (ho : s.owner = .held) (hchip : s.chipState = .identified)
include ho hchip

theorem exec_fpErase (h : s.fpState = .idle) :
    exec .fpErase s =
      .next ({ s with fpState := .erasing }.push [.op (.xchg (eraseFrame s.cfg)), .arm .tmoErase, .erasePoll]) :=
  issue_accepted _ _ ((s.readyAt_eq_true _).2 ⟨⟨ho, hchip⟩, h⟩)

theorem exec_fpEnableDma (h : s.fpState ≠ .failed) :
    exec .fpEnableDma s = .next (s.push [.op (.xchg (enableDmaFrame s.cfg)), .dmaEnabled]) :=
  issue_accepted _ _ (Bool.and_eq_true_iff.2 ⟨s.ready_eq_true.2 ⟨ho, hchip⟩, s.notFailed_eq_true.2 h⟩)

/-- The enable-DMA write comes first where it has not been made (R241). -/
theorem exec_fpConfigDma {len : Nat} (h : s.fpState = .configDma) (hlen : lengthLegal s.cfg len = true) :
    exec (.fpConfigDma len) s =
      .next (s.push ((if s.dmaEnabled = true then [] else [.op .enableDma]) ++ configTasks s.cfg len)) := by
  have hok := Bool.and_eq_true_iff.2 ⟨(s.readyAt_eq_true _).2 ⟨⟨ho, hchip⟩, h⟩, hlen⟩
  refine (issue_accepted _ _ hok).trans ?_
  split <;> rfl

theorem exec_fpBurstLoad {a : Nat} {bs : List Byte} (h : s.fpState = .burst) (hlen : bs.length = s.fpLen.toNat)
    (hbs : burstLegal s.cfg a bs = true) :
    exec (.fpBurstLoad a bs) s = .next (s.push (burstTasks s.cfg a bs)) := by
  refine issue_accepted _ _ ?_
  rw [Bool.and_eq_true, Bool.and_eq_true, State.readyAt_eq_true, beq_iff_eq]
  exact ⟨⟨⟨⟨ho, hchip⟩, h⟩, hlen⟩, hbs⟩

theorem exec_fpProgram (h : s.fpState = .programming) :
    exec .fpProgram s =
      .next (s.push [.op (.write s.cfg.addrDmaarm s.cfg.armB), .op (.write s.cfg.addrFctl s.cfg.fctlWriteValue),
        .arm .tmoProg, .progPoll]) :=
  issue_accepted _ _ ((s.readyAt_eq_true _).2 ⟨⟨ho, hchip⟩, h⟩)

theorem exec_fpClockInit (h : s.fpState ≠ .failed) :
    exec .fpClockInit s = .next (if s.cfg.clockInit = true then
        s.push [.op (.write s.cfg.addrClkconcmd s.cfg.clkCmdValue), .arm .tmoLink2, .clockPoll]
      else s.ret .unit) :=
  issue_accepted _ _ (Bool.and_eq_true_iff.2 ⟨s.ready_eq_true.2 ⟨ho, hchip⟩, s.notFailed_eq_true.2 h⟩)

theorem exec_fpWriteBlock {a : Nat} {bs : List Byte} (h : s.fpState = .configDma)
    (hlen : lengthLegal s.cfg bs.length = true) (hbs : burstLegal s.cfg a bs = true) :
    exec (.fpWriteBlock a bs) s =
      .next (s.push [.op (.configDma bs.length), .op (.burstLoad a bs), .op .program]) := by
  refine issue_accepted _ _ ?_
  rw [Bool.and_eq_true, Bool.and_eq_true, State.readyAt_eq_true]
  exact ⟨⟨⟨⟨ho, hchip⟩, h⟩, hlen⟩, hbs⟩

end Begins

/-- Settles O37: each operation from its state of the pipeline, its operands being legal. -/
theorem pipelineBegins : Obligations.PipelineBegins := by
  intro s len a bs ho hchip
  refine ⟨exec_fpErase ho hchip, exec_fpEnableDma ho hchip, fun h h1 hmax hbound h4 => ?config,
    fun h hlen ha hfit h1 hmax => ?burst, exec_fpProgram ho hchip, fun h hclock => ?clock, fun h hclock => ?noClock,
    fun h h1 hmax hbound h4 ha hfit => ?block⟩
  case config =>
    rw [exec_fpConfigDma ho hchip h ((lengthLegal_iff _ _).2 ⟨h1, hmax, hbound, h4⟩)]
    rfl
  case burst => exact exec_fpBurstLoad ho hchip h hlen ((burstLegal_iff _ _ _).2 ⟨ha, hfit, h1, hmax⟩)
  case clock =>
    rw [exec_fpClockInit ho hchip h, if_pos hclock]
    rfl
  case noClock =>
    rw [exec_fpClockInit ho hchip h, if_neg (Bool.eq_false_iff.1 hclock)]
    rfl
  case block =>
    exact exec_fpWriteBlock ho hchip h ((lengthLegal_iff _ _).2 ⟨h1, hmax, hbound, h4⟩)
      ((burstLegal_iff _ _ _).2 ⟨ha, hfit, h1, hmax⟩)

/-! ### When an operation is refused -/

/-- In another state of the pipeline than its own an operation is refused (R260). -/
theorem State.not_readyAt {s : State} {p : FpState} (h : s.fpState ≠ p) : (s.ready && s.fpState == p) = false := by
  rw [beq_false_of_ne h, Bool.and_false]

/-- None that asks for a pipeline that has not failed is accepted in FP_FAILED. -/
theorem State.failed_refuses {s : State} (h : s.fpState = .failed) : (s.ready && s.notFailed) = false := by
  rw [State.notFailed, h]
  exact Bool.and_false _

/-- A pass needs a session without a failure and without another pass (44_flash_read_and_transfer.md R276, R280). -/
theorem State.not_passReady {s : State} (h : s.err ≠ 0#3 ∨ s.toMode ≠ .none) : s.passReady = false := by
  rw [Bool.eq_false_iff, Ne, State.passReady_eq_true]
  rintro ⟨_, herr, hmode⟩
  exact h.elim (· herr) (· hmode)

theorem lengthLegal_eq_false_iff (cfg : Config) (len : Nat) :
    lengthLegal cfg len = false ↔ len = 0 ∨ cfg.burstMax < len ∨ 65534 < len ∨ len % 4 ≠ 0 := by
  rw [Bool.eq_false_iff, Ne, lengthLegal_iff]
  omega

theorem burstLegal_eq_false_iff (cfg : Config) (a : Nat) (bs : List Byte) :
    burstLegal cfg a bs = false ↔
      a % 4 ≠ 0 ∨ 262144 < a + bs.length ∨ bs.length = 0 ∨ cfg.burstMax < bs.length := by
  rw [Bool.eq_false_iff, Ne, burstLegal_iff]
  omega

/-- Settles O38: each refusal by the part of the requirement that does not hold. -/
theorem pipelineRefusals : Obligations.PipelineRefusals := by
  intro s len a bs src snk
  refine ⟨fun h => issue_refused _ _ (State.not_readyAt h), fun h => ?configState, fun h => ?configLength,
    fun h => ?burstState, fun h => ?burstOperands, fun h => issue_refused _ _ (State.not_readyAt h),
    fun h => ⟨issue_refused _ _ (State.failed_refuses h), issue_refused _ _ (State.failed_refuses h)⟩,
    fun h => ?block, fun h => ?writePass, fun h => ?readPass⟩
  case configState => exact issue_refused _ _ (by rw [State.not_readyAt h, Bool.false_and])
  case configLength => exact issue_refused _ _ (by rw [(lengthLegal_eq_false_iff _ _).2 h, Bool.and_false])
  case burstState => exact issue_refused _ _ (by rw [State.not_readyAt h, Bool.false_and, Bool.false_and])
  case burstOperands =>
    refine issue_refused _ _ ?_
    obtain ha | hbeyond | hlen := h
    · rw [burstLegal_misaligned _ _ ha, Bool.and_false]
    · rw [(burstLegal_eq_false_iff _ _ _).2 (.inr (.inl hbeyond)), Bool.and_false]
    · rw [beq_false_of_ne hlen, Bool.and_false, Bool.false_and]
  case block =>
    refine issue_refused _ _ ?_
    obtain hst | hoperands := h
    · rw [State.not_readyAt hst, Bool.false_and, Bool.false_and]
    · have hillegal : lengthLegal s.cfg bs.length = false ∨ burstLegal s.cfg a bs = false := by
        rw [lengthLegal_eq_false_iff, burstLegal_eq_false_iff]
        omega
      obtain hlen | hbs := hillegal
      · rw [hlen, Bool.and_false, Bool.false_and]
      · rw [hbs, Bool.and_false]
  case writePass =>
    refine issue_refused _ _ (Bool.and_eq_false_iff.2 ?_)
    obtain herr | hmode | hst := h
    · exact .inl (State.not_passReady (.inl herr))
    · exact .inl (State.not_passReady (.inr hmode))
    · exact .inr (beq_false_of_ne hst)
  case readPass =>
    refine issue_refused _ _ (Bool.and_eq_false_iff.2 ?_)
    obtain herr | hmode | ⟨hidle, hdone⟩ := h
    · exact .inl (State.not_passReady (.inl herr))
    · exact .inl (State.not_passReady (.inr hmode))
    · exact .inr (Bool.or_eq_false_iff.2 ⟨beq_false_of_ne hidle, beq_false_of_ne hdone⟩)

end Sys2Proof.Machine
end

section
/-! PROOFS. A burst on its way into flash: channel A stages it in target RAM, channel B programs it from there (O50). -/

namespace Sys2Proof.Machine

/-- What a run of writes stored reads back whole. -/
theorem Memory.readBytes_writeBytes (m : Memory) (a : Nat) (vs : List Byte) :
    (m.writeBytes a vs).readBytes a vs.length = some vs :=
  Memory.readBytes_eq _ _ _ fun _ hk => Memory.read_writeBytes_inside _ _ _ hk

/-- Staging a block leaves the registers (20_memory.md R71). -/
theorem Memory.read_register_staged {cfg : Config} (hcfg : configLegal cfg = true) {data : List Byte}
    (hlen : data.length = cfg.blockSize) {r : Half} (hr : r ∈ registerAddresses cfg) (m : Memory) :
    (m.writeBytes cfg.addrBuf.toNat data).read r.toNat = m.read r.toNat := by
  rw [configLegal, Bool.and_eq_true, ramLayoutLegal_iff] at hcfg
  obtain ⟨_, _, _, _, hregs⟩ := hcfg
  obtain ⟨hbuf, _, _⟩ := hregs r hr
  exact Memory.read_writeBytes_outside _ _ _ (hlen ▸ hbuf)

theorem faddrh_mem_registers (cfg : Config) : cfg.addrFaddrh ∈ registerAddresses cfg := by simp [registerAddresses]

theorem faddrl_mem_registers (cfg : Config) : cfg.addrFaddrl ∈ registerAddresses cfg := by simp [registerAddresses]

/-- A legal block's length fits the length field of a descriptor (30_encoding.md R107). -/
theorem blockLength_toNat {cfg : Config} (hcfg : configLegal cfg = true) :
    (BitVec.ofNat 16 cfg.blockSize).toNat = cfg.blockSize := by
  rw [configLegal, Bool.and_eq_true, blockSizeLegal_iff] at hcfg
  obtain ⟨⟨_, _, _, _, hbound⟩, _⟩ := hcfg
  rw [BitVec.toNat_ofNat]
  omega

/-- `s` after channel A's transfer, with XDATA, the transfers still to make and the response as given. -/
def State.staged (s : State) (m : Memory) (pending : List Channel) (r : List Bool) : State :=
  { s with target := { s.target with xdata := m, dbg := [], armedA := false, pending := pending, resp := r } }

/-- The burst and channel A's transfer put the burst's bytes at the destination (20_memory.md R81). -/
theorem execAll_burstStaged {s : State} (h : s.target.inDebug = true) (hA : s.target.armedA = true)
    (hc : s.target.config = s.cfg.configEnableDma) (hdbg : s.target.dbg = []) {data : List Byte} {dst len : Half}
    (hlen : data.length = len.toNat) (hfit : dst.toNat + data.length ≤ 65536) (c0 c1 : Byte) (is : List Instr) :
    ∃ (pending : List Channel) (r : List Bool),
      execAll (.burstWrite data :: .dmaDescriptor s.cfg.addrDbgdata dst len c0 c1 :: is) s =
        execAll is (s.staged (s.target.xdata.writeBytes dst.toNat data) pending r) := by
  have hburst := exec_burstWrite_armed data h hA hc
  rw [hdbg, List.nil_append] at hburst
  refine ⟨if .chA ∈ s.target.pending then s.target.pending else s.target.pending ++ [.chA], byteBits s.anyByte,
    execAll_next hburst (execAll_next (exec_dmaDescriptor_chA c0 c1 h rfl) ?_)⟩
  rw [Target.transferA_eq hlen (hlen ▸ hfit)]
  rfl

/-- Settles O50: channel B finds the burst's bytes in the staging buffer, and the start address as it was. -/
theorem burstProgramsFlash : Obligations.BurstProgramsFlash := by
  intro s data start hb lb h hA hc hdbg hcfg hlen hfit hne hh hl hstart hflash herased hblank
  have hlen16 : data.length = (BitVec.ofNat 16 data.length).toNat := by rw [hlen, blockLength_toNat hcfg]
  obtain ⟨pending, r, hstage⟩ := execAll_burstStaged h hA hc hdbg hlen16 hfit s.cfg.ctrlA0 s.cfg.ctrlA1
    [.dmaDescriptor s.cfg.addrBuf s.cfg.addrFwdata (BitVec.ofNat 16 data.length) s.cfg.ctrlB0 s.cfg.ctrlB1]
  have hh' := (Memory.read_register_staged hcfg hlen (faddrh_mem_registers s.cfg) s.target.xdata).trans hh
  have hl' := (Memory.read_register_staged hcfg hlen (faddrl_mem_registers s.cfg) s.target.xdata).trans hl
  have hstaged := s.target.xdata.readBytes_writeBytes s.cfg.addrBuf.toNat data
  obtain ⟨_, hchB, _⟩ := dmaTransfers (s.staged (s.target.xdata.writeBytes s.cfg.addrBuf.toNat data) pending r)
    s.cfg.addrBuf s.cfg.addrFwdata (BitVec.ofNat 16 data.length) s.cfg.ctrlB0 s.cfg.ctrlB1 h
  rw [← hlen16] at hchB
  obtain ⟨t, hprogram, hinside, houtside, _⟩ :=
    hchB start hb lb data hne rfl hh' hl' hstart hstaged hflash herased hblank
  exact ⟨t, hstage.trans (execAll_next hprogram rfl), hinside, houtside⟩

end Sys2Proof.Machine
end

section
/-! PROOFS. The passes of the Transfer Orchestrator, turn by turn: the write pass (O41) and the read pass (O42). -/

namespace Sys2Proof.Machine

/-! ### What a pass begins (44_flash_read_and_transfer.md R276, R280) -/

section Begins
variable {s : State} (hs : s.passReady = true)
include hs

theorem exec_toWriteAll (src : List Fill) (h : s.fpState = .idle) :
    exec (.toWriteAll src) s =
      .next ({ s with toMode := .write, toBlk := 0#19, toOff := 0#19, eoi := false }.push
        [.op .erase, .writeLoop src]) :=
  issue_accepted _ _ (Bool.and_eq_true_iff.2 ⟨hs, beq_iff_eq.2 h⟩)

/-- A read pass may follow a completed write pass. -/
theorem exec_toReadAll (snk : List Ack) (h : s.fpState = .idle ∨ s.fpState = .done) :
    exec (.toReadAll snk) s =
      .next ({ s with toMode := .read, toBlk := 0#19, toOff := 0#19, sunk := [] }.push [.readLoop snk]) :=
  issue_accepted _ _ (Bool.and_eq_true_iff.2 ⟨hs, Bool.or_eq_true_iff.2 (h.imp beq_iff_eq.2 beq_iff_eq.2)⟩)

end Begins

/-! ### One turn of the write loop, by the source's answer (R276 to R278) -/

theorem takenBytes_of_length_le {cfg : Config} {got : List Byte} (h : got.length ≤ cfg.blockSize) :
    takenBytes cfg got = got := List.take_of_length_le h

section WriteTurn
variable {s : State} {src : List Fill} (rest : List Task)

/-- No further fill is asked for once the extent is written or the input has ended (R278, R279). -/
theorem stepTask_writeLoop_ended (h : s.toNblk.toNat ≤ s.toBlk.toNat ∨ s.eoi = true) :
    stepTask (.writeLoop src) rest s = { s with tasks := .writeEnd :: rest } := by
  refine if_neg fun ⟨hblk, heoi⟩ => ?_
  obtain hlast | hend := h
  · exact absurd hblk (Nat.not_lt.2 hlast)
  · exact Bool.eq_false_iff.1 heoi hend

variable (hblk : s.toBlk.toNat < s.toNblk.toNat) (heoi : s.eoi = false)
include hblk heoi

theorem stepTask_writeLoop_storageError {d : Nat} (h : nextFill src = .storageError d) :
    stepTask (.writeLoop src) rest s = s.raise (.storageError d) := by
  rw [stepTask, stepWriteLoop, if_pos ⟨hblk, heoi⟩, h]

/-- An empty fill issues no block (R277). -/
theorem stepTask_writeLoop_exhausted (h : nextFill src = .bytes []) :
    stepTask (.writeLoop src) rest s = { s with eoi := true, tasks := .writeEnd :: rest } := by
  rw [stepTask, stepWriteLoop, if_pos ⟨hblk, heoi⟩, h]
  exact if_pos (congrArg List.length List.take_nil)

theorem stepTask_writeLoop_block {got : List Byte} (h : nextFill src = .bytes got) (hpos : 0 < got.length)
    (hfit : got.length ≤ s.cfg.blockSize) :
    stepTask (.writeLoop src) rest s = { s with
      eoi := decide (got.length < s.cfg.blockSize)
      buf := paddedBlock s.cfg got
      tasks := .op (.programBlock s.toOff.toNat (paddedBlock s.cfg got)) :: .blockDone ::
        .writeLoop src.tail :: rest } := by
  rw [stepTask, stepWriteLoop, if_pos ⟨hblk, heoi⟩, h]
  dsimp only
  rw [takenBytes_of_length_le hfit, if_neg (Nat.ne_of_gt hpos)]

end WriteTurn

/-- Settles O41: the pass begins, its loop turns by the source's answer, and a block and the pass end. -/
theorem writePass : Obligations.WritePass := by
  intro s src got d rest
  refine ⟨fun ho hchip herr hmode hst => ?begins, fun hblk heoi hpos hfit => ?block,
    fun hblk heoi => ⟨?empty, ?unlisted⟩, fun hblk heoi => ?storageError,
    fun h => stepTask_writeLoop_ended rest h, ?blockDone, ?writeEnd⟩
  case begins => exact exec_toWriteAll (s.passReady_eq_true.2 ⟨⟨ho, hchip⟩, herr, hmode⟩) src hst
  case block => exact stepTask_writeLoop_block rest hblk heoi rfl hpos hfit
  case empty => exact stepTask_writeLoop_exhausted rest hblk heoi rfl
  case unlisted => exact stepTask_writeLoop_exhausted rest hblk heoi rfl
  case storageError => exact stepTask_writeLoop_storageError rest hblk heoi rfl
  case blockDone => rfl
  case writeEnd => rfl

/-! ### One turn of the read loop, and the sink's answer (R280) -/

section ReadTurn
variable {s : State} {snk : List Ack} (rest : List Task)

theorem stepTask_readLoop_block (h : s.toBlk.toNat < s.toNblk.toNat) :
    stepTask (.readLoop snk) rest s = { s with
      tasks := .op (.flashRead s.toOff.toNat s.cfg.blockSize) :: .appendBlock snk :: rest } := if_pos h

theorem stepTask_readLoop_ended (h : s.toNblk.toNat ≤ s.toBlk.toNat) :
    stepTask (.readLoop snk) rest s = { s with tasks := rest, toMode := .none, result := .doneRead s.toBlk.toNat } :=
  if_neg (Nat.not_lt.2 h)

variable {bs : List Byte} (hres : s.result = .bytes bs)
include hres

theorem stepTask_appendBlock_accepted (h : nextAck snk = .accepted) :
    stepTask (.appendBlock snk) rest s = { s.advanceBlock with
      buf := bs, sunk := s.sunk ++ [bs], tasks := .readLoop snk.tail :: rest } := by
  rw [stepTask, stepAppendBlock, h, State.resultBytes_bytes hres]

/-- The block read stays in `BUF`, but is not counted as appended. -/
theorem stepTask_appendBlock_storageError {d : Nat} (h : nextAck snk = .storageError d) :
    stepTask (.appendBlock snk) rest s = { s with buf := bs }.raise (.storageError d) := by
  rw [stepTask, stepAppendBlock, h, State.resultBytes_bytes hres]

end ReadTurn

/-- Settles O42: the pass begins, its loop turns or ends, and the sink takes the block read or fails. -/
theorem readPass : Obligations.ReadPass := by
  intro s snk bs d rest
  refine ⟨fun ho hchip herr hmode hst => ?begins, fun h => stepTask_readLoop_block rest h,
    fun h => stepTask_readLoop_ended rest h, fun hres => ?accepted, fun hres => ?unlisted, fun hres => ?storageError⟩
  case begins => exact exec_toReadAll (s.passReady_eq_true.2 ⟨⟨ho, hchip⟩, herr, hmode⟩) snk hst
  case accepted => exact stepTask_appendBlock_accepted rest hres rfl
  case unlisted => exact stepTask_appendBlock_accepted rest hres rfl
  case storageError => exact stepTask_appendBlock_storageError rest hres rfl

end Sys2Proof.Machine
end

section
/-! PROOFS. Failures (O44), the end of a session and the restart (O43), and what every step keeps of a session (O56). -/

namespace Sys2Proof.Machine

/-! ### A failure raised (60_exceptions.md R290, R300) -/

/-- Settles O44: `raise` writes the five fields and no other, and the codes are those of R290. -/
theorem failureEntry : Obligations.FailureEntry := by
  intro s f
  cases f with
  | linkTimeout | chipUnidentified | eraseTimeout | programTimeout | storageError _ => rfl

/-! ### The teardown (60_exceptions.md R305, R306) -/

theorem State.teardown_owner (s : State) : s.teardown.owner = s.owner := by rw [s.teardown_frame]

theorem State.teardown_tasks (s : State) : s.teardown.tasks = s.tasks := by rw [s.teardown_frame]

theorem State.teardown_result (s : State) : s.teardown.result = s.result := by rw [s.teardown_frame]

theorem State.endSession_torndown (s : State) : s.endSession.torndown = true := by
  have hlife : s.endSession.life = .unloaded := s.teardown_life
  rw [State.torndown, hlife]
  rfl

section Accepted
variable {s : State} (ho : s.owner = .held)
include ho

theorem exec_toSessionEnd : exec .toSessionEnd s = .next ({ s.endSession with owner := .free }.ret .unit) :=
  issue_accepted _ _ (s.held_eq_true.2 ho)

theorem exec_toRestart :
    exec .toRestart s = .next ({ s.endSession with err := 0#3 }.push [.sleep s.cfg.settleDelay, .release]) :=
  issue_accepted _ _ (s.held_eq_true.2 ho)

/-- What the teardown does to a running engine is what the two lifecycle operations do. -/
theorem execAll_stopDeinit (hl : s.life = .running) :
    execAll [.leStop, .leDeinit] s = .next (s.teardown.ret .unit) := by
  rw [State.teardown_running hl]
  exact execAll_next (exec_leStop ho hl) (execAll_next (exec_leDeinit ho rfl) rfl)

end Accepted

/-- Settles O43: both operations do to the engine what the teardown does, which is what the lifecycle state needs. -/
theorem sessionEndAndRestart : Obligations.SessionEndAndRestart := by
  intro s d rest ho
  refine ⟨s.teardown, State.teardown_unloaded, fun hl => ?loaded, execAll_stopDeinit ho, exec_toSessionEnd ho, ?restart,
    s.teardown_life, s.teardown_result, s.teardown_tasks, rfl, rfl⟩
  case loaded => rw [State.teardown_loaded hl]; exact exec_leDeinit ho hl
  case restart => rw [exec_toRestart ho, ← s.teardown_tasks]; rfl

/-! ### The three situations of a session -/

/-- Nobody owns the block: it is torn down, and the host context idle. -/
def State.unowned (s : State) : Prop := s.owner = .free ∧ s.torndown = true ∧ s.tasks = []

/-- TO.RESTART has torn the session down, and settles or is about to release the block. -/
def State.settling (s : State) : Prop :=
  s.owner = .held ∧ s.torndown = true ∧ ((∃ d : Nat, s.tasks = [.sleep d, .release]) ∨ s.tasks = [.release])

/-- The block is owned, and nothing still to do releases it. -/
def State.inSession (s : State) : Prop := s.owner = .held ∧ s.tasks.any Task.releases = false

theorem State.sessionLegal_iff (s : State) : s.sessionLegal = true ↔ s.unowned ∨ s.settling ∨ s.inSession := by
  constructor
  · intro h
    simp only [State.sessionLegal, Bool.and_eq_true, Bool.or_eq_true, bne_iff_ne, Bool.not_eq_true',
      List.isEmpty_iff] at h
    obtain ⟨hfree, hsettle⟩ := h
    cases ho : s.owner with
    | free => exact .inl ⟨ho, hfree.resolve_left fun hne => hne ho⟩
    | held =>
      obtain hrel | ⟨htorn, htasks⟩ := hsettle
      · exact .inr (.inr ⟨ho, hrel⟩)
      · refine .inr (.inl ⟨ho, htorn, ?_⟩)
        split at htasks
        · rename_i d heq; exact .inl ⟨d, heq⟩
        · rename_i heq; exact .inr heq
        · cases htasks
  · rintro (⟨ho, htorn, htasks⟩ | ⟨ho, htorn, ⟨d, htasks⟩ | htasks⟩ | ⟨ho, hrel⟩)
    · simp [State.sessionLegal, htorn, htasks]
    · simp [State.sessionLegal, ho, htorn, htasks]
    · simp [State.sessionLegal, ho, htorn, htasks]
    · simp [State.sessionLegal, ho, hrel]

/-! ### What an operation keeps of a session -/

/-- The exchanges that store the bytes of a block release nothing. -/
theorem writeByteTasks_releases (cfg : Config) (bs : List Byte) :
    (bs.flatMap (writeByteTasks cfg)).any Task.releases = false := by
  induction bs with
  | nil => rfl
  | cons b bs ih => rw [List.flatMap_cons, List.any_append, ih]; rfl

section InSession
variable {s : State} (hs : s.inSession)
include hs

/-- A call of tasks none of which releases the block. -/
theorem inSession_push {ts : List Task} (hts : ts.any Task.releases = false) : (s.push ts).inSession := by
  obtain ⟨ho, hrel⟩ := hs
  exact ⟨ho, by rw [State.push_tasks, List.any_append, hts, hrel]; rfl⟩

/-- A failure and a refusal end every operation, and the block stays owned. -/
theorem inSession_raise (f : Failure) : (s.raise f).inSession := ⟨hs.1, rfl⟩

theorem inSession_refuse : s.refuse.inSession := ⟨hs.1, rfl⟩

theorem inSession_teardown : s.teardown.inSession := by rw [s.teardown_frame]; exact hs

theorem inSession_switch (v : Variant) : (s.switch v).inSession := by rw [s.switch_frame]; exact hs

theorem inSession_askTimer (i : TimerId) : (s.askTimer i).inSession := by
  rw [State.askTimer, State.setTimer_frame]; exact hs

theorem inSession_armTimer (i : TimerId) : (s.armTimer i).inSession := by
  rw [State.armTimer, State.setTimer_frame]; exact hs

theorem inSession_linkTimeout : s.linkTimeout.inSession := by
  unfold State.linkTimeout
  split
  · exact inSession_raise (s := s.abort) hs _
  · exact inSession_raise hs _

/-- An operation keeps the session where its effect does: so does a refusal. -/
theorem issue_inSession {ok : Bool} {t u : State} (h : issue ok s t = .next u) (ht : t.inSession) : u.inSession := by
  obtain ⟨_, rfl⟩ | ⟨_, rfl⟩ := issue_eq_next.1 h
  · exact ht
  · exact inSession_refuse hs

/-- Only TO.SESSION_END and TO.RESTART end a session. -/
theorem exec_operation_inSession {t : State} {i : Instr} (hi : isOperation i = true) (hend : i ≠ .toSessionEnd)
    (hrestart : i ≠ .toRestart) (h : exec i s = .next t) : t.inSession := by
  cases i
  case toSessionEnd => exact absurd rfl hend
  case toRestart => exact absurd rfl hrestart
  case leSwitch v => exact issue_inSession hs h (inSession_switch hs v)
  case leAttach => exact issue_inSession hs h (inSession_push (inSession_teardown hs) rfl)
  case cpXchg f =>
    refine issue_inSession hs h (inSession_push ?_ rfl)
    exact inSession_armTimer (inSession_switch hs (variantOf f.kind)) .tmo
  case alWriteBlock a bs =>
    refine issue_inSession hs h (inSession_push hs ?_)
    rw [List.any_cons, List.any_append, writeByteTasks_releases]
    rfl
  case fpConfigDma len => exact issue_inSession hs h (inSession_push hs (by split <;> rfl))
  case fpClockInit =>
    refine issue_inSession hs h ?_
    split
    · exact inSession_push hs rfl
    · exact hs
  case leLoad | leStart | leStop | leAbort | leDeinit | idLookup => exact issue_inSession hs h hs
  case alWrite | alRead | alReadBlockBanked | idRead | fpErase | fpEnableDma | fpBurstLoad | fpProgram | fpWriteBlock |
      frRead | toWriteAll | toReadAll =>
    refine issue_inSession hs h (inSession_push ?_ rfl)
    exact hs
  case toSessionStart =>
    refine issue_inSession hs h (inSession_push ?_ rfl)
    exact ⟨rfl, hs.2⟩
  all_goals cases hi

/-! ### What a point of an operation keeps of it -/

/-- The tests of a poll (60_exceptions.md R298): the flag ends it, the ceiling fails, and otherwise it goes on. -/
theorem poll_inSession {flag : Prop} [Decidable flag] {i : TimerId} {f : Failure} {u : State} {ts : List Task}
    (hu : u.inSession) (hts : ts.any Task.releases = false) :
    (if flag then u else if s.expired i then (s.askTimer i).raise f
      else { s.askTimer i with tasks := ts }).inSession := by
  have hasked := inSession_askTimer hs i
  split_ifs
  · exact hu
  · exact inSession_raise hasked f
  · exact ⟨hasked.1, hts⟩

section Point
variable {rest : List Task} (hrest : rest.any Task.releases = false)
include hrest

theorem stepSend_inSession (words : List Word) : (stepSend words rest s).inSession := by
  have hasked := inSession_askTimer hs .tmo
  obtain ⟨ho, _⟩ := hs
  unfold stepSend
  split
  · exact ⟨ho, hrest⟩
  · split
    · split
      · exact inSession_linkTimeout hasked
      · exact hasked
    · exact ⟨ho, by split <;> exact hrest⟩

theorem stepAwait_inSession (f : Frame) : (stepAwait f rest s).inSession := by
  have hasked := inSession_askTimer hs .tmo
  have hexpired := inSession_linkTimeout hasked
  have ⟨hoasked, _⟩ := hasked
  have ⟨ho, _⟩ := hs
  unfold stepAwait
  repeat' split
  exacts [⟨ho, hrest⟩, hexpired, hasked, hexpired, hasked, ⟨ho, hrest⟩, hexpired, ⟨hoasked, hrest⟩]

/-- A point of an operation passed, other than the release itself. -/
theorem stepTask_inSession {k : Task} (hk : k.releases = false) : (stepTask k rest s).inSession := by
  have ⟨ho, _⟩ := hs
  cases k
  case release => cases hk
  case op => exact hs
  case send words => exact stepSend_inSession hs hrest words
  case await f => exact stepAwait_inSession hs hrest f
  case arm i => exact ⟨(inSession_armTimer hs i).1, hrest⟩
  case waitDone => rw [stepTask]; split; exacts [⟨ho, hrest⟩, hs]
  case identify =>
    rw [stepTask, stepIdentify]
    split
    · exact ⟨ho, rfl⟩
    · exact ⟨ho, by split <;> exact hrest⟩
  case eraseTest | progTest | clockTest => exact poll_inSession hs ⟨ho, hrest⟩ hrest
  case readSeg => rw [stepTask, stepReadSeg]; split <;> exact ⟨ho, hrest⟩
  case readByte => rw [stepTask, stepReadByte]; split <;> exact ⟨ho, hrest⟩
  case readLoop => rw [stepTask, stepReadLoop]; split <;> exact ⟨ho, hrest⟩
  case writeLoop =>
    rw [stepTask, stepWriteLoop]
    split
    · split
      · exact inSession_raise hs _
      · dsimp only; split <;> exact ⟨ho, hrest⟩
    · exact ⟨ho, hrest⟩
  case appendBlock =>
    rw [stepTask, stepAppendBlock]
    split
    · exact ⟨ho, rfl⟩
    · exact ⟨ho, hrest⟩
  all_goals exact ⟨ho, hrest⟩

end Point
end InSession

theorem SubOp.instr_ne_toSessionEnd (o : SubOp) : o.instr ≠ .toSessionEnd := by cases o <;> nofun

theorem SubOp.instr_ne_toRestart (o : SubOp) : o.instr ≠ .toRestart := by cases o <;> nofun

/-! ### A turn of the host context -/

theorem sessionLegal_of_inSession {s : State} (h : s.inSession) : s.sessionLegal = true :=
  s.sessionLegal_iff.2 (.inr (.inr h))

theorem sessionLegal_of_unowned {s : State} (h : s.unowned) : s.sessionLegal = true := s.sessionLegal_iff.2 (.inl h)

theorem sessionLegal_of_settling {s : State} (h : s.settling) : s.sessionLegal = true :=
  s.sessionLegal_iff.2 (.inr (.inl h))

/-- Without an owner every request but TO.SESSION_START is refused, and that one begins a session. -/
theorem exec_operation_unowned {s t : State} {i : Instr} (hs : s.unowned) (hi : isOperation i = true)
    (h : exec i s = .next t) : t.sessionLegal = true := by
  obtain ⟨ho, htorn, htasks⟩ := hs
  have hrefuse : s.refuse.sessionLegal = true := sessionLegal_of_unowned ⟨ho, htorn, rfl⟩
  by_cases hstart : i = .toSessionStart
  · subst hstart
    obtain ⟨_, rfl⟩ | ⟨_, rfl⟩ := issue_eq_next.1 h
    · exact sessionLegal_of_inSession (inSession_push ⟨rfl, by rw [htasks]; rfl⟩ rfl)
    · exact hrefuse
  · obtain ⟨ok, u, hexec, hreq⟩ := exec_operation_requires hi s
    obtain ⟨hok, _⟩ | ⟨_, rfl⟩ := issue_eq_next.1 (hexec ▸ h)
    · have hheld := (hreq hok).1 hstart
      rw [ho] at hheld
      cases hheld
    · exact hrefuse

theorem exec_toSessionEnd_unowned {s t : State} (ho : s.owner = .held) (htasks : s.tasks = [])
    (h : exec .toSessionEnd s = .next t) : t.unowned := by
  rw [exec_toSessionEnd ho] at h
  obtain rfl := Host.Outcome.next.inj h
  exact ⟨rfl, s.endSession_torndown, s.teardown_tasks.trans htasks⟩

theorem exec_toRestart_settling {s t : State} (ho : s.owner = .held) (htasks : s.tasks = [])
    (h : exec .toRestart s = .next t) : t.settling := by
  rw [exec_toRestart ho] at h
  obtain rfl := Host.Outcome.next.inj h
  refine ⟨s.teardown_owner.trans ho, s.endSession_torndown, .inl ⟨s.cfg.settleDelay, ?_⟩⟩
  exact congrArg ([.sleep s.cfg.settleDelay, .release] ++ ·) (s.teardown_tasks.trans htasks)

/-- A request of the host in a session: TO.SESSION_END frees the block, TO.RESTART settles, any other keeps the session. -/
theorem exec_request_inSession {s t : State} {i : Instr} (hs : s.inSession) (htasks : s.tasks = [])
    (hi : isOperation i = true) (h : exec i s = .next t) : t.sessionLegal = true := by
  by_cases hend : i = .toSessionEnd
  · subst hend
    exact sessionLegal_of_unowned (exec_toSessionEnd_unowned hs.1 htasks h)
  by_cases hrestart : i = .toRestart
  · subst hrestart
    exact sessionLegal_of_settling (exec_toRestart_settling hs.1 htasks h)
  exact sessionLegal_of_inSession (exec_operation_inSession hs hi hend hrestart h)

theorem run_hostMove_unowned {s t : State} (hs : s.unowned) (h : run s.hostMove = .next t) :
    t.sessionLegal = true := by
  obtain ⟨ho, htorn, hidle⟩ := hs
  rcases run_hostMove h with ⟨_, _, htasks, _⟩ | ⟨_, _, _, _, htasks, _, _⟩ | ⟨_, _, htasks, _⟩ |
    ⟨_, rs, i, _, _, hd, he⟩ | ⟨_, rs, _, _, rfl⟩ | ⟨_, _, rfl⟩
  · cases hidle ▸ htasks
  · cases hidle ▸ htasks
  · cases hidle ▸ htasks
  · exact exec_operation_unowned (s := { s with req := rs }) ⟨ho, htorn, hidle⟩ (decodeHop_isOperation hd) he
  · exact sessionLegal_of_unowned ⟨ho, htorn, hidle⟩
  · exact sessionLegal_of_unowned ⟨ho, htorn, hidle⟩

/-- While it settles the host context sleeps, then releases the block. -/
theorem run_hostMove_settling {s t : State} (hs : s.settling) (h : run s.hostMove = .next t) :
    t.sessionLegal = true := by
  obtain ⟨ho, htorn, ⟨d, htasks⟩ | htasks⟩ := hs
  all_goals
    simp only [State.hostMove, htasks, run, Host.Outcome.next.injEq] at h
    subst h
  · exact sessionLegal_of_settling ⟨ho, htorn, .inr rfl⟩
  · exact sessionLegal_of_unowned ⟨rfl, htorn, rfl⟩

theorem run_hostMove_inSession {s t : State} (hs : s.inSession) (h : run s.hostMove = .next t) :
    t.sessionLegal = true := by
  have ⟨ho, hrel⟩ := hs
  have hsplit {k : Task} {rest : List Task} (htasks : s.tasks = k :: rest) :
      k.releases = false ∧ rest.any Task.releases = false := by
    rwa [htasks, List.any_cons, Bool.or_eq_false_iff] at hrel
  rcases run_hostMove h with ⟨o, rest, htasks, he⟩ | ⟨_, _, _, _, _, _, rfl⟩ | ⟨k, rest, htasks, rfl⟩ |
    ⟨_, rs, i, htasks, _, hd, he⟩ | ⟨_, _, _, _, rfl⟩ | ⟨_, _, rfl⟩
  · obtain ⟨_, hrest⟩ := hsplit htasks
    exact sessionLegal_of_inSession (exec_operation_inSession (s := { s with tasks := rest }) ⟨ho, hrest⟩
      o.instr_isOperation o.instr_ne_toSessionEnd o.instr_ne_toRestart he)
  · exact sessionLegal_of_inSession hs
  · obtain ⟨hk, hrest⟩ := hsplit htasks
    exact sessionLegal_of_inSession (stepTask_inSession hs hrest hk)
  · exact exec_request_inSession (s := { s with req := rs }) hs htasks (decodeHop_isOperation hd) he
  · exact sessionLegal_of_inSession hs
  · exact sessionLegal_of_inSession hs

/-! ### A step -/

/-- Settles O56: the host context keeps each of the three situations or goes on to the next, and no other agent writes
what they speak of. -/
theorem stepKeepsSession : Obligations.StepKeepsSession := by
  intro s t hs h
  have hbegin : s.begin.sessionLegal = true := hs
  rcases step_next h with ⟨_, h⟩ | ⟨_, h⟩ | ⟨_, h⟩ | ⟨_, h⟩
  · obtain hfree | hsettles | howned := s.begin.sessionLegal_iff.1 hbegin
    · exact run_hostMove_unowned hfree h
    · exact run_hostMove_settling hsettles h
    · exact run_hostMove_inSession howned h
  · obtain ⟨hframe, _⟩ := run_seqMove_frame h
    exact (congrArg State.sessionLegal hframe).trans hbegin
  · obtain ⟨hframe, _⟩ := run_targetMove_frame h
    exact (congrArg State.sessionLegal hframe).trans hbegin
  · obtain ⟨hframe, _⟩ := run_dmaMove_frame h
    exact (congrArg State.sessionLegal hframe).trans hbegin

end Sys2Proof.Machine
end
